-- ==== Sys2Proof/Word.lean ====
section
/-! DEFINITION. Word.lean: the word types of the block. A host transaction moves one 32-bit word
(20_memory.md R81); a transaction word is 37 bits (30_encoding.md R110). -/

namespace Sys2Proof

/-- One 32-bit register word, bus data, or duration in µs ticks (R41, R16 `DUR_WIDTH`). -/
abbrev Word := BitVec 32

/-- A host transaction `{W, A[3:0], D[31:0]}` (30_encoding.md R110). -/
abbrev TxnWord := BitVec 37

end Sys2Proof
end

