-- ==== Sys2Proof/Config.lean ====
section
/-! DEFINITION. Config.lean: what is fixed for the lifetime of one block: the constants of 00_scope.md
R12 to R15 and the parameters of R11, R16 and R74. The spec gives the parameters no value ("a model
takes the value as an argument"), so they are plain data that the state carries and nothing writes. -/

namespace Sys2Proof

/-- A pulse shape `{high, low}` in base units, 8 bits each (R16 `FACTOR_WIDTH`, R46 to R48). -/
structure Shape where
  high : BitVec 8
  low  : BitVec 8
deriving DecidableEq, Repr

/-- A Protocol record (10_state.md R67): the content of one ROM entry, and of the active protocol. -/
structure Protocol where
  base     : BitVec 16
  sync     : Shape
  zero     : Shape
  one      : Shape
  inverted : Bool
deriving DecidableEq, Repr

/-- The protocol ROM's content (00_scope.md R11): entry 1, then entries 2 to `N_PROTO`. A table with
`N_PROTO` = 0, which a model refuses, cannot be written (log 5). -/
structure ProtoTable where
  first : Protocol
  rest  : List Protocol
deriving DecidableEq, Repr

/-- The parameters of the block (00_scope.md R16, 10_state.md R74). -/
structure Params where
  table                : ProtoTable
  repeatReset          : BitVec 16
  tolReset             : BitVec 8
  gapMatchInclusive    : Bool
  matchInclusive       : Bool
  txFinalFollowsInvert : Bool
  syncStages           : Nat
  minEdgeSpacing       : Nat
deriving DecidableEq, Repr

namespace Config

/-- `CAP`, the capture buffer's capacity (R12). -/
abbrev cap : Nat := 67

/-- `SEP_LIMIT` in µs (R13). -/
abbrev sepLimit : Nat := 4300

/-- `GAP_MATCH` in µs (R14). -/
abbrev gapMatchWindow : Nat := 200

/-- `SHORT_MAX`, the largest edge count that is TooShort (R15). -/
abbrev shortMax : Nat := 7

/-- Record T1 of the vector configuration (92_eei_decisions.md D37). -/
def vectorT1 : Protocol := ⟨350, ⟨1, 31⟩, ⟨1, 3⟩, ⟨3, 1⟩, false⟩

/-- Record T2 of the vector configuration (92_eei_decisions.md D37). -/
def vectorT2 : Protocol := ⟨650, ⟨1, 10⟩, ⟨1, 2⟩, ⟨2, 1⟩, false⟩

/-- Record T3 of the vector configuration (92_eei_decisions.md D37). -/
def vectorT3 : Protocol := ⟨450, ⟨23, 1⟩, ⟨1, 2⟩, ⟨2, 1⟩, true⟩

/-- The parameters of `State.reset`. DESIGN CHOICE, unsafe (log 4): the spec leaves `PROTO_TABLE`,
`REPEAT_RESET`, `TOL_RESET` and `MIN_EDGE_SPACING` open; this is the vector ROM of D37, the values 10
and 60 that R16 suggests, and the spacing 1, which shuts no environment out. The other four are the
defaults of R16. No statement about the machine rests on them: each is made for every `Params`. -/
def resetParams : Params where
  table := ⟨vectorT1, [vectorT2, vectorT3]⟩
  repeatReset := 10
  tolReset := 60
  gapMatchInclusive := false
  matchInclusive := false
  txFinalFollowsInvert := false
  syncStages := 2
  minEdgeSpacing := 1

end Config

end Sys2Proof
end

