-- ==== Sys2Proof/Syntax.lean ====
section
/-! DEFINITION. Syntax.lean: the block's instructions, the host transactions of 30_encoding.md R115: one
constructor per row of spec/opcode_table.json, in the table's order. Don't-care bits (D of a read, ARG
of a command that ignores it) are no operands (R111, R114; log 20). -/

namespace Sys2Proof

/-- A host transaction, decoded (30_encoding.md R115). -/
inductive Instr where
  /-- `RD CTRL` (R152). -/
  | rdCtrl
  /-- `RD STATUS` (R154). -/
  | rdStatus
  /-- `RD CMD` (R156). -/
  | rdCmd
  /-- `RD PROTO_BASE` (R157). -/
  | rdProtoBase
  /-- `RD PROTO_SYNC` (R159). -/
  | rdProtoSync
  /-- `RD PROTO_ZERO` (R161). -/
  | rdProtoZero
  /-- `RD PROTO_ONE` (R163). -/
  | rdProtoOne
  /-- `RD PROTO_FLAGS` (R165). -/
  | rdProtoFlags
  /-- `RD REPEAT` (R167). -/
  | rdRepeat
  /-- `RD TX_VALUE` (R169). -/
  | rdTxValue
  /-- `RD TX_LEN` (R171). -/
  | rdTxLen
  /-- `RD RX_TOL` (R173). -/
  | rdRxTol
  /-- `RD MSG_VALUE` (R175). -/
  | rdMsgValue
  /-- `RD MSG_BITLEN` (R177). -/
  | rdMsgBitlen
  /-- `RD MSG_PROTO` (R179). -/
  | rdMsgProto
  /-- `RD MSG_DELAY` (R181). -/
  | rdMsgDelay
  /-- `WR CTRL, d` (R153). -/
  | wrCtrl (d : Word)
  /-- `WR STATUS, d` (R155). -/
  | wrStatus (d : Word)
  /-- `CMD NOP` (R201). -/
  | cmdNop
  /-- `CMD INIT` (R202). -/
  | cmdInit
  /-- `CMD SELPROTO id`, `id` the whole 24-bit ARG (R203, R114). -/
  | cmdSelproto (arg : BitVec 24)
  /-- `CMD TXSTART` (R205). -/
  | cmdTxstart
  /-- `CMD CONSUME` (R208). -/
  | cmdConsume
  /-- `CMD op8, arg24` with a reserved opcode 0x05..0xFF (R209, R117). -/
  | cmdReserved (op : BitVec 8) (arg : BitVec 24)
  /-- `WR PROTO_BASE, d` (R158). -/
  | wrProtoBase (d : Word)
  /-- `WR PROTO_SYNC, d` (R160). -/
  | wrProtoSync (d : Word)
  /-- `WR PROTO_ZERO, d` (R162). -/
  | wrProtoZero (d : Word)
  /-- `WR PROTO_ONE, d` (R164). -/
  | wrProtoOne (d : Word)
  /-- `WR PROTO_FLAGS, d` (R166). -/
  | wrProtoFlags (d : Word)
  /-- `WR REPEAT, d` (R168). -/
  | wrRepeat (d : Word)
  /-- `WR TX_VALUE, d` (R170). -/
  | wrTxValue (d : Word)
  /-- `WR TX_LEN, d` (R172). -/
  | wrTxLen (d : Word)
  /-- `WR RX_TOL, d` (R174). -/
  | wrRxTol (d : Word)
  /-- `WR MSG_VALUE, d` (R176). -/
  | wrMsgValue (d : Word)
  /-- `WR MSG_BITLEN, d` (R178). -/
  | wrMsgBitlen (d : Word)
  /-- `WR MSG_PROTO, d` (R180). -/
  | wrMsgProto (d : Word)
  /-- `WR MSG_DELAY, d` (R182). -/
  | wrMsgDelay (d : Word)
deriving DecidableEq, Repr

/-- The row of spec/opcode_table.json an instruction stands for. -/
def Instr.mnemonic : Instr → String
  | .rdCtrl => "RD_CTRL"
  | .rdStatus => "RD_STATUS"
  | .rdCmd => "RD_CMD"
  | .rdProtoBase => "RD_PROTO_BASE"
  | .rdProtoSync => "RD_PROTO_SYNC"
  | .rdProtoZero => "RD_PROTO_ZERO"
  | .rdProtoOne => "RD_PROTO_ONE"
  | .rdProtoFlags => "RD_PROTO_FLAGS"
  | .rdRepeat => "RD_REPEAT"
  | .rdTxValue => "RD_TX_VALUE"
  | .rdTxLen => "RD_TX_LEN"
  | .rdRxTol => "RD_RX_TOL"
  | .rdMsgValue => "RD_MSG_VALUE"
  | .rdMsgBitlen => "RD_MSG_BITLEN"
  | .rdMsgProto => "RD_MSG_PROTO"
  | .rdMsgDelay => "RD_MSG_DELAY"
  | .wrCtrl _ => "WR_CTRL"
  | .wrStatus _ => "WR_STATUS"
  | .cmdNop => "CMD_NOP"
  | .cmdInit => "CMD_INIT"
  | .cmdSelproto _ => "CMD_SELPROTO"
  | .cmdTxstart => "CMD_TXSTART"
  | .cmdConsume => "CMD_CONSUME"
  | .cmdReserved _ _ => "CMD_RESERVED"
  | .wrProtoBase _ => "WR_PROTO_BASE"
  | .wrProtoSync _ => "WR_PROTO_SYNC"
  | .wrProtoZero _ => "WR_PROTO_ZERO"
  | .wrProtoOne _ => "WR_PROTO_ONE"
  | .wrProtoFlags _ => "WR_PROTO_FLAGS"
  | .wrRepeat _ => "WR_REPEAT"
  | .wrTxValue _ => "WR_TX_VALUE"
  | .wrTxLen _ => "WR_TX_LEN"
  | .wrRxTol _ => "WR_RX_TOL"
  | .wrMsgValue _ => "WR_MSG_VALUE"
  | .wrMsgBitlen _ => "WR_MSG_BITLEN"
  | .wrMsgProto _ => "WR_MSG_PROTO"
  | .wrMsgDelay _ => "WR_MSG_DELAY"

/-- The sixteen reads (W = 0). -/
def Instr.isRead : Instr → Bool
  | .rdCtrl => true
  | .rdStatus => true
  | .rdCmd => true
  | .rdProtoBase => true
  | .rdProtoSync => true
  | .rdProtoZero => true
  | .rdProtoOne => true
  | .rdProtoFlags => true
  | .rdRepeat => true
  | .rdTxValue => true
  | .rdTxLen => true
  | .rdRxTol => true
  | .rdMsgValue => true
  | .rdMsgBitlen => true
  | .rdMsgProto => true
  | .rdMsgDelay => true
  | .wrCtrl _ => false
  | .wrStatus _ => false
  | .cmdNop => false
  | .cmdInit => false
  | .cmdSelproto _ => false
  | .cmdTxstart => false
  | .cmdConsume => false
  | .cmdReserved _ _ => false
  | .wrProtoBase _ => false
  | .wrProtoSync _ => false
  | .wrProtoZero _ => false
  | .wrProtoOne _ => false
  | .wrProtoFlags _ => false
  | .wrRepeat _ => false
  | .wrTxValue _ => false
  | .wrTxLen _ => false
  | .wrRxTol _ => false
  | .wrMsgValue _ => false
  | .wrMsgBitlen _ => false
  | .wrMsgProto _ => false
  | .wrMsgDelay _ => false

end Sys2Proof
end

