-- ==== Sys2Proof/WellFormed.lean ====
section
/-! DEFINITION. WellFormed.lean: which terms of `Instr` stand for a transaction. Every operand has its
field's width by type, so the one check is the opcode of `CMD_RESERVED`, 0x05 to 0xFF (30_encoding.md
R115, R117). -/

namespace Sys2Proof

/-- The check (R115: `CMD_RESERVED` matches exactly the CMD writes whose `OP` is 0x05..0xFF). -/
def Instr.wf : Instr → Bool
  | .cmdReserved op _ => decide (5 ≤ op.toNat)
  | .rdCtrl | .rdStatus | .rdCmd | .rdProtoBase | .rdProtoSync | .rdProtoZero | .rdProtoOne
  | .rdProtoFlags | .rdRepeat | .rdTxValue | .rdTxLen | .rdRxTol | .rdMsgValue | .rdMsgBitlen
  | .rdMsgProto | .rdMsgDelay | .wrCtrl _ | .wrStatus _ | .cmdNop | .cmdInit | .cmdSelproto _
  | .cmdTxstart | .cmdConsume | .wrProtoBase _ | .wrProtoSync _ | .wrProtoZero _ | .wrProtoOne _
  | .wrProtoFlags _ | .wrRepeat _ | .wrTxValue _ | .wrTxLen _ | .wrRxTol _ | .wrMsgValue _
  | .wrMsgBitlen _ | .wrMsgProto _ | .wrMsgDelay _ => true

/-- `i` is the decoded form of some transaction word. -/
abbrev Instr.WellFormed (i : Instr) : Prop := i.wf = true

end Sys2Proof
end

