-- ==== Sys2Proof/Decode.lean ====
section
/-! DEFINITION. Decode.lean: from a 37-bit transaction word to an instruction (30_encoding.md R110,
R115, R116), and back. Decoding is total on transaction words; a number wider than 37 bits is no
transaction word and is rejected by name. -/

namespace Sys2Proof

/-- `W = T[36]` (R110). -/
def txnW (t : TxnWord) : Bool := t.getLsbD 36

/-- `A = T[35:32]` (R110). -/
def txnA (t : TxnWord) : BitVec 4 := t.extractLsb' 32 4

/-- `D = T[31:0]` (R110). -/
def txnD (t : TxnWord) : Word := t.extractLsb' 0 32

/-- `OP = D[31:24]` (R113). -/
def cmdOp (d : Word) : BitVec 8 := d.extractLsb' 24 8

/-- `ARG = D[23:0]` (R113). -/
def cmdArg (d : Word) : BitVec 24 := d.extractLsb' 0 24

/-- The read rows of R115, selected by `A` alone (R111). Every address names a register (R81), so the
last arm is address 15. -/
def decodeRead (a : BitVec 4) : Instr :=
  match a.toNat with
  | 0 => .rdCtrl
  | 1 => .rdStatus
  | 2 => .rdCmd
  | 3 => .rdProtoBase
  | 4 => .rdProtoSync
  | 5 => .rdProtoZero
  | 6 => .rdProtoOne
  | 7 => .rdProtoFlags
  | 8 => .rdRepeat
  | 9 => .rdTxValue
  | 10 => .rdTxLen
  | 11 => .rdRxTol
  | 12 => .rdMsgValue
  | 13 => .rdMsgBitlen
  | 14 => .rdMsgProto
  | _ => .rdMsgDelay

/-- The CMD rows of R115: first match in the table's order, so every opcode from 0x05 on is reserved
(R113, R117). -/
def decodeCmd (d : Word) : Instr :=
  match (cmdOp d).toNat with
  | 0 => .cmdNop
  | 1 => .cmdInit
  | 2 => .cmdSelproto (cmdArg d)
  | 3 => .cmdTxstart
  | 4 => .cmdConsume
  | _ => .cmdReserved (cmdOp d) (cmdArg d)

/-- The write rows of R115: selected by `A` (R112), and by `OP` where `A` is CMD (R113). -/
def decodeWrite (a : BitVec 4) (d : Word) : Instr :=
  match a.toNat with
  | 0 => .wrCtrl d
  | 1 => .wrStatus d
  | 2 => decodeCmd d
  | 3 => .wrProtoBase d
  | 4 => .wrProtoSync d
  | 5 => .wrProtoZero d
  | 6 => .wrProtoOne d
  | 7 => .wrProtoFlags d
  | 8 => .wrRepeat d
  | 9 => .wrTxValue d
  | 10 => .wrTxLen d
  | 11 => .wrRxTol d
  | 12 => .wrMsgValue d
  | 13 => .wrMsgBitlen d
  | 14 => .wrMsgProto d
  | _ => .wrMsgDelay d

/-- Decoding a transaction word, in the three steps of R116. -/
def decode (t : TxnWord) : Instr :=
  if txnW t then decodeWrite (txnA t) (txnD t) else decodeRead (txnA t)

/-- Why a number is no transaction. -/
inductive DecodeError where
  /-- It has a bit above bit 36: a transaction word has 37 bits (R110). -/
  | widerThanTransactionWord
deriving DecidableEq, Repr

/-- Decoding a number: total, rejecting by name what is no transaction word (R110; log 15). -/
def decodeNumber (w : Nat) : Except DecodeError Instr :=
  if w < 2 ^ 37 then .ok (decode (BitVec.ofNat 37 w)) else .error .widerThanTransactionWord

/-- The instruction the decoder reads from a word numbered as spec/opcode_table.json numbers it: bit 36
is `W`. Bits from `nbits` on are 0. The block stores no transaction word (R110), so there is no byte
order to undo. -/
def decodeTableWord (nbits w : Nat) : Option Instr :=
  match decodeNumber (w % 2 ^ nbits) with
  | .ok i => some i
  | .error _ => none

/-- The transaction word `{W, A, D}` (R110). -/
def txnWord (w : Bool) (a : BitVec 4) (d : Word) : TxnWord := BitVec.ofBool w ++ a ++ d

/-- A write of CMD, `D = {OP, ARG}` (R113). -/
def cmdWord (op : BitVec 8) (arg : BitVec 24) : TxnWord := txnWord true 2 (op ++ arg)

/-- The word of an instruction, don't-care bits 0 (R115). -/
def encode : Instr → TxnWord
  | .rdCtrl => txnWord false 0 0
  | .rdStatus => txnWord false 1 0
  | .rdCmd => txnWord false 2 0
  | .rdProtoBase => txnWord false 3 0
  | .rdProtoSync => txnWord false 4 0
  | .rdProtoZero => txnWord false 5 0
  | .rdProtoOne => txnWord false 6 0
  | .rdProtoFlags => txnWord false 7 0
  | .rdRepeat => txnWord false 8 0
  | .rdTxValue => txnWord false 9 0
  | .rdTxLen => txnWord false 10 0
  | .rdRxTol => txnWord false 11 0
  | .rdMsgValue => txnWord false 12 0
  | .rdMsgBitlen => txnWord false 13 0
  | .rdMsgProto => txnWord false 14 0
  | .rdMsgDelay => txnWord false 15 0
  | .wrCtrl d => txnWord true 0 d
  | .wrStatus d => txnWord true 1 d
  | .cmdNop => cmdWord 0 0
  | .cmdInit => cmdWord 1 0
  | .cmdSelproto arg => cmdWord 2 arg
  | .cmdTxstart => cmdWord 3 0
  | .cmdConsume => cmdWord 4 0
  | .cmdReserved op arg => cmdWord op arg
  | .wrProtoBase d => txnWord true 3 d
  | .wrProtoSync d => txnWord true 4 d
  | .wrProtoZero d => txnWord true 5 d
  | .wrProtoOne d => txnWord true 6 d
  | .wrProtoFlags d => txnWord true 7 d
  | .wrRepeat d => txnWord true 8 d
  | .wrTxValue d => txnWord true 9 d
  | .wrTxLen d => txnWord true 10 d
  | .wrRxTol d => txnWord true 11 d
  | .wrMsgValue d => txnWord true 12 d
  | .wrMsgBitlen d => txnWord true 13 d
  | .wrMsgProto d => txnWord true 14 d
  | .wrMsgDelay d => txnWord true 15 d

end Sys2Proof
end

