-- ==== Sys2Proof/Machine/State.lean ====
section
/-! DEFINITION. Machine/State.lean: every piece of state the spec gives the block (10_state.md), as plain
data, and the state after reset (R69). The block has no byte-addressed memory (20_memory.md R80); its
capture buffer is a vector of 67 words and its protocol ROM a parameter. -/

namespace Sys2Proof.Machine

/-- CTRL's fields (R42). Reserved bits have no storage: they read 0 and ignore writes (R58). -/
structure Ctrl where
  txEn   : Bool
  rxEn   : Bool
  txLine : BitVec 8
  rxLine : BitVec 8
deriving DecidableEq, Repr

/-- The published message, MSG_VALUE, MSG_BITLEN, MSG_PROTO and MSG_DELAY (R54 to R57). -/
structure Message where
  value  : Word
  bitlen : BitVec 6
  proto  : BitVec 8
  delay  : Word
deriving DecidableEq, Repr

/-- `tx_state` (R59). -/
inductive TxState where
  | idle | armed | run
deriving DecidableEq, Repr

/-- `tx_phase` (R59): data-bit active, data-bit inactive, sync active, sync inactive part. -/
inductive TxPhase where
  | da | di | sa | si
deriving DecidableEq, Repr

/-- A position of the transmit engine: `tx_phase`, `tx_bit`, `tx_rep` (R59, R238). -/
structure TxPos where
  phase : TxPhase
  bit   : BitVec 6
  rep   : BitVec 16
deriving DecidableEq, Repr

/-- The latched copy `L` (R60). -/
structure TxLatch where
  base  : BitVec 16
  sync  : Shape
  zero  : Shape
  one   : Shape
  inv   : Bool
  value : Word
  len   : BitVec 6
  rep   : BitVec 16
deriving DecidableEq, Repr

/-- The transmit engine's state (R59, R60). -/
structure TxEngine where
  state : TxState
  pos   : TxPos
  timer : BitVec 24
  level : Bool
  latch : TxLatch
deriving DecidableEq, Repr

/-- The receive engine's state (R61 to R66). `sync` is the synchroniser chain, newest sample first, and
the two counters are naturals (log 16). `guard` is the model's own (log 8): the number of coming cycles
in which a further accepted transition would be closer than `MIN_EDGE_SPACING` (R287). -/
structure RxEngine where
  sync               : List Bool
  prev               : Bool
  since              : Word
  pend               : Bool
  pendDur            : Word
  buffer             : Vector Word Config.cap
  changeCount        : Nat
  repeatConfirmCount : Nat
  guard              : Nat
deriving DecidableEq, Repr

/-- The environment's inputs of one `clk` cycle (R30); when a tick comes is its choice (log 21). `edgeGo`
is the model's own (log 7): whether a pending edge step is done in this cycle, which R285 leaves to the
hardware up to `MIN_EDGE_SPACING`. -/
structure CycleIn where
  rst      : Bool
  usTick   : Bool
  rxIn     : Bool
  busWe    : Bool
  busRe    : Bool
  busAddr  : BitVec 4
  busWdata : Word
  edgeGo   : Bool
deriving DecidableEq, Repr

/-- The whole block. `par` is fixed for its lifetime (R74). `busRdata` is the value driven on the port
`bus_rdata` in the cycle just run, none where that cycle performed no read (R33; log 10). `inputs` lists
the inputs of the cycles to come, the next one first (log 1). -/
structure State where
  par         : Params
  ctrl        : Ctrl
  selClamped  : Bool
  ap          : Protocol
  repeatCount : BitVec 16
  txValue     : Word
  txLen       : BitVec 6
  rxTol       : BitVec 8
  msg         : Message
  tx          : TxEngine
  rx          : RxEngine
  busRdata    : Option Word
  inputs      : List CycleIn
deriving DecidableEq, Repr

/-- The block raises no exception, fault or trap, and no item of the spec is treated as a fault
(60_exceptions.md R360, 93_implementation_defined.md): nothing can raise one (log 14). -/
inductive Fault : Type
deriving DecidableEq, Repr

/-- Why a step gives no next state. -/
inductive Refusal where
  /-- Raised by an arm of `exec` whose instruction has no meaning yet; safe. -/
  | notModelled (mnemonic : String)
  /-- Raised by `step` where the parameters are not well formed, as R11 and I1 ask ("a model refuses a
  table that is not well formed"); safe. -/
  | malformedParams
  /-- Raised by `step` where the environment places two accepted transitions closer than
  `MIN_EDGE_SPACING`, which R287 and I4 do not specify and tell a model to refuse; safe. -/
  | edgeSpacing
deriving DecidableEq, Repr

/-- The transmit engine after reset (R69). Position and latched copy are unspecified there: DESIGN
CHOICE zero, unobservable while IDLE (R60; log 6). -/
def TxEngine.reset : TxEngine where
  state := .idle
  pos := ⟨.da, 0, 0⟩
  timer := 0
  level := false
  latch := ⟨0, ⟨0, 0⟩, ⟨0, 0⟩, ⟨0, 0⟩, false, 0, 0, 0⟩

/-- The receive engine after reset (R69). `rx_pend_dur` and the buffer are unspecified there: DESIGN
CHOICE zero, unobservable (R63, R64, R71; log 6). -/
def RxEngine.reset (p : Params) : RxEngine where
  sync := List.replicate p.syncStages false
  prev := false
  since := 0
  pend := false
  pendDur := 0
  buffer := Vector.replicate Config.cap 0
  changeCount := 0
  repeatConfirmCount := 0
  guard := 0

/-- The state after reset of a block with parameters `p` (R69). -/
def State.resetWith (p : Params) : State where
  par := p
  ctrl := ⟨false, false, 0, 0⟩
  selClamped := false
  ap := p.table.first
  repeatCount := p.repeatReset
  txValue := 0
  txLen := 0
  rxTol := p.tolReset
  msg := ⟨0, 0, 0, 0⟩
  tx := TxEngine.reset
  rx := RxEngine.reset p
  busRdata := none
  inputs := []

/-- The machine right after reset (R69), with the parameters `Config.resetParams` (log 4) and no input
listed (log 2, log 3). -/
def State.reset : State := State.resetWith Config.resetParams

end Sys2Proof.Machine
end

