-- ==== Sys2Proof/Machine/Ops.lean ====
section
/-! DEFINITION. Machine/Ops.lean: the named operations the instructions and the engines share: arithmetic
of 00_scope.md section 5, the protocol ROM, the capture buffer, the ways a transaction ends, and reset.
The block takes no exception and returns from none (60_exceptions.md R360, R373, R374), so there is no
such operation. -/

namespace Sys2Proof.Machine

/-! Arithmetic (00_scope.md section 5). -/

/-- `absdiff(a, b)`, exact. -/
def absdiff (a b : Nat) : Nat := (a - b) + (b - a)

/-- `sat_32(v)`. -/
def sat32 (v : Nat) : Word := BitVec.ofNat 32 (min v (2 ^ 32 - 1))

/-! The protocol ROM (10_state.md R67, 20_memory.md R83). -/

/-- The ROM's entries in order, entry 1 first. -/
def romEntries (t : ProtoTable) : List Protocol := t.first :: t.rest

/-- `N_PROTO` (R11). -/
def nProto (t : ProtoTable) : Nat := (romEntries t).length

/-- `RomRead(p)`, 1-based (R67). No index outside 1..`N_PROTO` is ever read (R83); there the model
answers entry 1 (log 18). -/
def romRead (t : ProtoTable) (p : Nat) : Protocol := (romEntries t).getD (p - 1) t.first

/-- Both factors are in 1..255 (R11). -/
def shapeWf (h : Shape) : Bool := decide (1 ≤ h.high.toNat) && decide (1 ≤ h.low.toNat)

/-- A ROM entry is well formed: base in 1..65535 and every factor in 1..255 (R11). -/
def protocolWf (p : Protocol) : Bool :=
  decide (1 ≤ p.base.toNat) && shapeWf p.sync && shapeWf p.zero && shapeWf p.one

/-- `PROTO_TABLE` is well formed: 1 ≤ `N_PROTO` ≤ 255 and every entry is (R11). -/
def tableWf (t : ProtoTable) : Bool := decide (nProto t ≤ 255) && (romEntries t).all protocolWf

/-- The parameters a model admits: a well-formed table (R11), and a synchroniser chain
`rx_sync[SYNC_STAGES-1:0]` of at least one flop (R61; DEDUCED, log 5). Every `MIN_EDGE_SPACING` is
admitted, 0 too, for which the spec gives no range (DESIGN CHOICE, log 23). -/
def paramsWf (p : Params) : Bool := tableWf p.table && decide (1 ≤ p.syncStages)

/-! The capture buffer (20_memory.md R82). -/

/-- `CapRead(i)`. No rule reads an index above 66 (R82). -/
def capRead (buf : Vector Word Config.cap) (i : Nat) : Word := buf.toList.getD i 0

/-- `CapWrite(i, v)`. The store of an edge step has `i` ≤ 66 (R294). -/
def capWrite (buf : Vector Word Config.cap) (i : Nat) (v : Word) : Vector Word Config.cap :=
  buf.setIfInBounds i v

/-! How a transaction ends: always with a next state (R360). -/

/-- A read drives its result on `bus_rdata` (R33) and changes no state (R88). -/
def driveRead (w : Word) (s : State) : Host.Outcome State Fault Refusal :=
  .next { s with busRdata := some w }

/-- A write of a read-only register, a NOP and a reserved command change no state (R151, R209). -/
def noEffect (s : State) : Host.Outcome State Fault Refusal := .next s

/-- The latched copy taken from the configuration as it stands (R60, R205). -/
def latchOf (s : State) : TxLatch where
  base := s.ap.base
  sync := s.ap.sync
  zero := s.ap.zero
  one := s.ap.one
  inv := s.ap.inverted
  value := s.txValue
  len := s.txLen
  rep := s.repeatCount

/-- `publish`: the four message registers change together (44_decoder.md R332, 20_memory.md R93). -/
def publish (m : Message) (s : State) : State := { s with msg := m }

/-- `rst` (70_reset_and_hazards.md R400): every state element takes its reset value; the parameters, the
ROM among them, are not changed, and the inputs to come are the environment's. -/
def applyReset (s : State) : State := { State.resetWith s.par with inputs := s.inputs }

end Sys2Proof.Machine
end

