-- ==== Sys2Proof/Machine/Decoder.lean ====
section
/-! DEFINITION. Machine/Decoder.lean: the protocol matcher and candidate-trial decoder (44_decoder.md).
All arithmetic is on naturals (R339); the accumulator is 32 bits (R327). -/

namespace Sys2Proof.Machine

/-- `baseUnit`: the observed base length (R322). -/
def baseUnit (p : Protocol) (g : Nat) : Nat := g / max p.sync.high.toNat p.sync.low.toNat

/-- `tol`, in µs, the same for every expected multiple (R323). -/
def tolerance (unit pct : Nat) : Nat := unit * pct / 100

/-- `x` is within tolerance of `e` (R325). -/
def within (inclusive : Bool) (x e tol : Nat) : Bool :=
  if inclusive then decide (absdiff x e ≤ tol) else decide (absdiff x e < tol)

/-- A pair of durations is within tolerance of a shape's high and low multiples (R326). -/
def pairMatches (inclusive : Bool) (h : Shape) (unit tol : Nat) (a b : Word) : Bool :=
  within inclusive a.toNat (h.high.toNat * unit) tol && within inclusive b.toNat (h.low.toNat * unit) tol

/-- `dataStart` (R324). -/
def dataStart (p : Protocol) : Nat := if p.inverted then 2 else 1

/-- The pairs of R326's loop, in order: the accumulator is shifted left, then the zero test, then the one
test; a pair that matches neither ends the trial (R327, R329), and an entry without a partner is not
looked at. -/
def decodePairs (inclusive : Bool) (p : Protocol) (unit tol : Nat) : List Word → Word → Option Word
  | a :: b :: rest, acc =>
    if pairMatches inclusive p.zero unit tol a b then
      decodePairs inclusive p unit tol rest (acc <<< 1)
    else if pairMatches inclusive p.one unit tol a b then
      decodePairs inclusive p unit tol rest (acc <<< 1 ||| 1)
    else none
  | [_], acc => some acc
  | [], acc => some acc

/-- The outcome of one trial (00_scope.md section 5). -/
inductive TrialResult where
  | tooShort
  | noMatch
  | success (acc : Word) (unit : Nat)
deriving DecidableEq, Repr

/-- The entries a trial examines: `CapRead(dataStart)` to `CapRead(n-1)` (R321, R326). -/
def trialEntries (p : Protocol) (buf : Vector Word Config.cap) (n : Nat) : List Word :=
  (buf.toList.take n).drop (dataStart p)

/-- `trial(p, n)` for the ROM entry `p` (R326): TooShort first (R328), then the pairs. -/
def trial (inclusive : Bool) (pct : Nat) (p : Protocol) (buf : Vector Word Config.cap) (n : Nat) :
    TrialResult :=
  if n ≤ Config.shortMax then .tooShort
  else
    let unit := baseUnit p (capRead buf 0).toNat
    match decodePairs inclusive p unit (tolerance unit pct) (trialEntries p buf n) 0 with
    | none => .noMatch
    | some acc => .success acc unit

/-- The message of a success: bit length from `n` alone (R331), the protocol's ROM index, the observed
base unit (R332). -/
def messageOf (acc : Word) (unit n id : Nat) : Message where
  value := acc
  bitlen := BitVec.ofNat 6 ((n - 1) / 2)
  proto := BitVec.ofNat 8 id
  delay := BitVec.ofNat 32 unit

/-- The trials of the entries listed, the first of them numbered `id`, in ascending order, ending at the
first success (R320). -/
def tryFrom (inclusive : Bool) (pct : Nat) (buf : Vector Word Config.cap) (n : Nat) :
    List Protocol → Nat → Option Message
  | [], _ => none
  | p :: ps, id =>
    match trial inclusive pct p buf n with
    | .success acc unit => some (messageOf acc unit n id)
    | .noMatch => tryFrom inclusive pct buf n ps (id + 1)
    | .tooShort => tryFrom inclusive pct buf n ps (id + 1)

/-- `tryAll(n)`: the message to publish, or none (R320). It reads the ROM, never the active protocol
(R334). -/
def tryAll (par : Params) (pct : Nat) (buf : Vector Word Config.cap) (n : Nat) : Option Message :=
  tryFrom par.matchInclusive pct buf n (romEntries par.table) 1

end Sys2Proof.Machine
end

