-- ==== Sys2Proof/Machine/Capture.lean ====
section
/-! DEFINITION. Machine/Capture.lean: the edge-capture accumulator (43_edge_capture.md): the front end of
every `clk` cycle (R280 to R285) and the edge step (R288 to R294), which runs the decode trials. -/

namespace Sys2Proof.Machine

/-! The edge step. -/

/-- A duration is a gap (R289). -/
def isGap (d : Word) : Bool := decide (Config.sepLimit < d.toNat)

/-- `gapMatch(d, g)` (R288, R290). -/
def gapMatch (inclusive : Bool) (d g : Word) : Bool :=
  if inclusive then decide (absdiff d.toNat g.toNat ≤ Config.gapMatchWindow)
  else decide (absdiff d.toNat g.toNat < Config.gapMatchWindow)

/-- Step 1a's condition: this gap advances `repeatConfirmCount` (R290). -/
def gapCounts (par : Params) (d : Word) (r : RxEngine) : Bool :=
  decide (r.repeatConfirmCount = 0) || gapMatch par.gapMatchInclusive d (capRead r.buffer 0)

/-- Publish what the trials found, if anything (R320). -/
def publishFound (m : Option Message) (s : State) : State :=
  match m with
  | none => s
  | some msg => publish msg s

/-- Step 1a: advance `repeatConfirmCount`; at 2 run the trials over the frame just ended and return to 0
whatever their outcome (R290, R291). -/
def countGap (pct : BitVec 8) (s : State) : State :=
  if s.rx.repeatConfirmCount + 1 = 2 then
    let s' := publishFound (tryAll s.par pct.toNat s.rx.buffer s.rx.changeCount) s
    { s' with rx := { s'.rx with repeatConfirmCount := 0 } }
  else { s with rx := { s.rx with repeatConfirmCount := s.rx.repeatConfirmCount + 1 } }

/-- Step 1: a gap may advance the counter, and always begins a new frame (R288, R292). -/
def gapStep (pct : BitVec 8) (d : Word) (s : State) : State :=
  if isGap d then
    let s' := if gapCounts s.par d s.rx then countGap pct s else s
    { s' with rx := { s'.rx with changeCount := 0 } }
  else s

/-- Step 2: the overflow guard (R293). -/
def overflowStep (s : State) : State :=
  if Config.cap ≤ s.rx.changeCount then
    { s with rx := { s.rx with changeCount := 0, repeatConfirmCount := 0 } }
  else s

/-- Step 3: store the duration (R294). -/
def storeStep (d : Word) (s : State) : State :=
  { s with rx := { s.rx with buffer := capWrite s.rx.buffer s.rx.changeCount d,
                             changeCount := s.rx.changeCount + 1 } }

/-- The edge step for one accepted transition with duration `d`, with the tolerance `pct` (R288). -/
def edgeStep (pct : BitVec 8) (d : Word) (s : State) : State :=
  storeStep d (overflowStep (gapStep pct d s))

/-- The edge steps of several durations, with nothing between them (R123 `EDGE`). -/
def edgeSteps (pct : BitVec 8) : List Word → State → State
  | [], s => s
  | d :: ds, s => edgeSteps pct ds (edgeStep pct d s)

/-! The front end. -/

/-- `rx_s`: the sample that has passed all flops of the chain (R280). -/
def syncSample (r : RxEngine) : Bool := r.sync.getLastD false

/-- `rx_in` is shifted into the chain (R280); what is sampled at a change is the environment's (log 13). -/
def shiftSync (rxIn : Bool) (sync : List Bool) : List Bool := (rxIn :: sync).dropLast

/-- A transition of the synchronised line, in either direction (R281). -/
def transition (r : RxEngine) : Bool := xor (syncSample r) r.prev

/-- A transition is accepted when RX_EN is 1 at the start of the cycle (R282). -/
def accepted (s : State) : Bool := transition s.rx && s.ctrl.rxEn

/-- `rx_since` with this cycle's tick, saturating (R283). -/
def sinceNow (usTick : Bool) (r : RxEngine) : Word := sat32 (r.since.toNat + usTick.toNat)

/-- The front end's registers at the end of a cycle, from the inputs and whether a transition is accepted
(R280 to R285). `guard` restarts at an acceptance and counts down otherwise (log 8). DESIGN CHOICE: a
`MIN_EDGE_SPACING` of 0, for which the spec gives no range, acts as 1, since `0 - 1` is 0 here (log 23). -/
def frontEnd (spacing : Nat) (usTick rxIn acc : Bool) (start r : RxEngine) : RxEngine :=
  let r' := { r with sync := shiftSync rxIn start.sync, prev := syncSample start }
  if acc then
    { r' with pend := true, pendDur := sinceNow usTick start, since := 0, guard := spacing - 1 }
  else { r' with since := sinceNow usTick start, guard := start.guard - 1 }

/-- The pending edge step is done in this cycle: the schedule says so, or it may wait no longer (R285,
R369; log 7). -/
def edgeDue (edgeGo : Bool) (r : RxEngine) : Bool := r.pend && (edgeGo || decide (r.guard = 0))

/-- The edge step of the pending transition, which clears the latch (R285; log 19). -/
def consumePending (pct : BitVec 8) (s : State) : State :=
  let s' := edgeStep pct s.rx.pendDur s
  { s' with rx := { s'.rx with pend := false } }

/-! The line model of R297: what a receiver on a line measures. -/

/-- Adjacent segments of one level are one run. DESIGN CHOICE: a run of duration 0 stays a run of its own, with
a transition of duration 0 at its end, of which R297 says nothing (log 25). A `txWave` has no segment of
duration 0 (R236), so this concerns a first level held for `t` = 0 only. -/
def mergeRuns : Bool → Nat → List (Bool × Nat) → List (Bool × Nat)
  | v, t, [] => [(v, t)]
  | v, t, (v', t') :: rest => if v = v' then mergeRuns v (t + t') rest else (v, t) :: mergeRuns v' t' rest

/-- The durations of the transitions of a line that holds `v0` for `t0` µs and then carries a waveform:
the lengths of all runs but the last (R297). With `t0` = 0 see log 25. -/
def lineDurations (v0 : Bool) (t0 : Nat) (wave : List (Bool × Nat)) : List Nat :=
  ((mergeRuns v0 t0 wave).dropLast).map Prod.snd

end Sys2Proof.Machine
end

