-- ==== Sys2Proof/Machine/Flags.lean ====
section
/-! DEFINITION. Machine/Flags.lean: the status flags the block computes (10_state.md R43, R73) and its
output ports (R35 to R39). -/

namespace Sys2Proof.Machine

/-- STATUS.TX_BUSY: `tx_state` is not IDLE (R43, R238). -/
def txBusy (s : State) : Bool := decide (s.tx.state ≠ .idle)

/-- STATUS.MSG_AVAIL: MSG_VALUE is not the sentinel 0 (R43). -/
def msgAvail (s : State) : Bool := decide (s.msg.value ≠ 0)

/-- The port `tx_out`: the transmit engine's line level (R35, R238). -/
def txOut (s : State) : Bool := s.tx.level

/-- The port `tx_oe` (R36, R242). -/
def txOe (s : State) : Bool := s.ctrl.txEn || txBusy s

/-- The port `tx_line` (R37). -/
def txLinePort (s : State) : BitVec 8 := s.ctrl.txLine

/-- The port `rx_line` (R39). -/
def rxLinePort (s : State) : BitVec 8 := s.ctrl.rxLine

end Sys2Proof.Machine
end

