-- ==== Sys2Proof/Machine/Operands.lean ====
section
/-! DEFINITION. Machine/Operands.lean: where a register's fields stand in its 32-bit word (10_state.md
R42 to R57): the word a read returns, reserved bits 0 (R150, R58), and the fields a write takes from its
data, unsigned and unshifted (30_encoding.md R114). -/

namespace Sys2Proof.Machine

/-! The word a read returns. -/

/-- CTRL: `{RX_LINE, TX_LINE, 000000, RX_EN, TX_EN}` (R152). -/
def ctrlWord (c : Ctrl) : Word :=
  (c.rxLine ++ c.txLine ++ 0#6 ++ BitVec.ofBool c.rxEn ++ BitVec.ofBool c.txEn).setWidth 32

/-- STATUS: `{SEL_CLAMPED, MSG_AVAIL, TX_BUSY}` (R154). -/
def statusWord (s : State) : Word :=
  (BitVec.ofBool s.selClamped ++ BitVec.ofBool (msgAvail s) ++ BitVec.ofBool (txBusy s)).setWidth 32

/-- A shape register: `{low, high}` (R159, R161, R163). -/
def shapeWord (h : Shape) : Word := (h.low ++ h.high).setWidth 32

/-- PROTO_FLAGS: `INVERTED` in bit 0 (R165). -/
def flagsWord (p : Protocol) : Word := (BitVec.ofBool p.inverted).setWidth 32

/-- The current word of the register at word address `a`; CMD reads 0 (R41, R152 to R181). -/
def registerWord (a : BitVec 4) (s : State) : Word :=
  match a.toNat with
  | 0 => ctrlWord s.ctrl
  | 1 => statusWord s
  | 2 => 0
  | 3 => s.ap.base.setWidth 32
  | 4 => shapeWord s.ap.sync
  | 5 => shapeWord s.ap.zero
  | 6 => shapeWord s.ap.one
  | 7 => flagsWord s.ap
  | 8 => s.repeatCount.setWidth 32
  | 9 => s.txValue
  | 10 => s.txLen.setWidth 32
  | 11 => s.rxTol.setWidth 32
  | 12 => s.msg.value
  | 13 => s.msg.bitlen.setWidth 32
  | 14 => s.msg.proto.setWidth 32
  | _ => s.msg.delay

/-- Byte `k` of a word as a byte-addressed platform maps it, little-endian (20_memory.md R84). -/
def byteLane (w : Word) (k : Nat) : BitVec 8 := w.extractLsb' (8 * k) 8

/-! The fields a write takes from its data `d`. -/

/-- CTRL's fields (R153). -/
def ctrlOf (d : Word) : Ctrl where
  txEn := d.getLsbD 0
  rxEn := d.getLsbD 1
  txLine := d.extractLsb' 8 8
  rxLine := d.extractLsb' 16 8

/-- A shape: `high = d[7:0]`, `low = d[15:8]` (R160, R162, R164). -/
def shapeOf (d : Word) : Shape where
  high := d.extractLsb' 0 8
  low := d.extractLsb' 8 8

/-- PROTO_BASE.BASE (R158) and REPEAT.COUNT (R168): `d[15:0]`. -/
def low16 (d : Word) : BitVec 16 := d.extractLsb' 0 16

/-- TX_LEN.LEN: `d[5:0]` (R172). -/
def low6 (d : Word) : BitVec 6 := d.extractLsb' 0 6

/-- RX_TOL.PCT: `d[7:0]` (R174). -/
def low8 (d : Word) : BitVec 8 := d.extractLsb' 0 8

/-- PROTO_FLAGS.INVERTED: `d[0]` (R166). -/
def invertedOf (d : Word) : Bool := d.getLsbD 0

/-- CMD SELPROTO's id: `zext_32(ARG)` (R114, R203). -/
def selprotoId (arg : BitVec 24) : Nat := (arg.setWidth 32).toNat

end Sys2Proof.Machine
end

