-- ==== Sys2Proof/Machine/Transmit.lean ====
section
/-! DEFINITION. Machine/Transmit.lean: the pulse-train generator (42_transmitter.md): the waveform as a
function of the latched copy (R230 to R237) and the engine that emits it one µs tick at a time (R238 to
R241). -/

namespace Sys2Proof.Machine

/-! Levels, bits and shapes. -/

/-- `ACT`: physical high unless inverted (R231). -/
def actLevel (l : TxLatch) : Bool := !l.inv

/-- `INA = 1 - ACT` (R231). -/
def inaLevel (l : TxLatch) : Bool := l.inv

/-- `bit(i)`: bit `i` of the value, 0 from position 32 on (R234). -/
def dataBit (l : TxLatch) (i : Nat) : Bool := decide (i ≤ 31) && l.value.getLsbD i

/-- `shape(b)` (R240). -/
def bitShape (l : TxLatch) (i : Nat) : Shape := if dataBit l i then l.one else l.zero

/-! The waveform function (R235, R236). -/

/-- The two segments of a shape: active for `base * high` ticks, then inactive for `base * low` (R232). -/
def shapeSegments (l : TxLatch) (h : Shape) : List (Bool × Nat) :=
  [(actLevel l, l.base.toNat * h.high.toNat), (inaLevel l, l.base.toNat * h.low.toNat)]

/-- The data bits `n - 1` down to 0 (R235). -/
def bitSegments (l : TxLatch) : Nat → List (Bool × Nat)
  | 0 => []
  | n + 1 => shapeSegments l (bitShape l n) ++ bitSegments l n

/-- One frame: the data bits, most significant first, then the sync shape (R235). -/
def frameSegments (l : TxLatch) : List (Bool × Nat) :=
  bitSegments l l.len.toNat ++ shapeSegments l l.sync

/-- `n` frames, one after another (R235). -/
def repeatFrames (l : TxLatch) : Nat → List (Bool × Nat)
  | 0 => []
  | n + 1 => frameSegments l ++ repeatFrames l n

/-- `txSegments(L)` (R235). -/
def txSegments (l : TxLatch) : List (Bool × Nat) := repeatFrames l l.rep.toNat

/-- `txWave(L)`: the segments of nonzero duration (R236, R237). -/
def txWave (l : TxLatch) : List (Bool × Nat) := (txSegments l).filter fun seg => decide (0 < seg.2)

/-- `FINAL` (R241). -/
def finalLevel (followsInvert : Bool) (l : TxLatch) : Bool :=
  if followsInvert then inaLevel l else false

/-! Positions (R240). -/

/-- `level(pos)` (R240). -/
def posLevel (l : TxLatch) (p : TxPos) : Bool :=
  match p.phase with
  | .da => actLevel l
  | .sa => actLevel l
  | .di => inaLevel l
  | .si => inaLevel l

/-- `duration(pos)` (R240). -/
def posDuration (l : TxLatch) (p : TxPos) : Nat :=
  match p.phase with
  | .da => l.base.toNat * (bitShape l p.bit.toNat).high.toNat
  | .di => l.base.toNat * (bitShape l p.bit.toNat).low.toNat
  | .sa => l.base.toNat * l.sync.high.toNat
  | .si => l.base.toNat * l.sync.low.toNat

/-- The first position of frame `r`. With no data bit, `tx_bit` is not defined (R240) and keeps `b`
(log 12). -/
def frameStart (l : TxLatch) (b : BitVec 6) (r : BitVec 16) : TxPos :=
  if l.len = 0 then ⟨.sa, b, r⟩ else ⟨.da, l.len - 1, r⟩

/-- The unfiltered start position (R240). -/
def startPos (l : TxLatch) : Option TxPos := if l.rep = 0 then none else some (frameStart l 0 0)

/-- `succ` (R240). In the sync phases `tx_bit` is not defined and keeps its value (log 12). -/
def succPos (l : TxLatch) (p : TxPos) : Option TxPos :=
  match p.phase with
  | .da => some { p with phase := .di }
  | .di => if p.bit = 0 then some { p with phase := .sa } else some { p with phase := .da, bit := p.bit - 1 }
  | .sa => some { p with phase := .si }
  | .si => if p.rep.toNat + 1 < l.rep.toNat then some (frameStart l p.bit (p.rep + 1)) else none

/-- From position `p` on, the first of nonzero duration, within `fuel` positions (R240). -/
def seekPos (l : TxLatch) : Nat → Option TxPos → Option TxPos
  | 0, _ => none
  | _ + 1, none => none
  | fuel + 1, some p => if 0 < posDuration l p then some p else seekPos l fuel (succPos l p)

/-- The number of positions of `txSegments(L)` (R235): enough for any search (log 17). -/
def positionCount (l : TxLatch) : Nat := l.rep.toNat * (2 * l.len.toNat + 2)

/-- `first(L)` (R239). -/
def firstPos (l : TxLatch) : Option TxPos := seekPos l (positionCount l) (startPos l)

/-- `next(pos)` (R239, R240). -/
def nextPos (l : TxLatch) (p : TxPos) : Option TxPos := seekPos l (positionCount l) (succPos l p)

/-! The engine (R239). -/

/-- Begin the segment at a position, or, when there is none, drive `FINAL` and return to IDLE (R239,
R241). The position and the timer then keep their values, which nothing reads (log 12). -/
def enterSegment (followsInvert : Bool) (e : TxEngine) : Option TxPos → TxEngine
  | none => { e with level := finalLevel followsInvert e.latch, state := .idle }
  | some p => { e with pos := p, level := posLevel e.latch p,
                       timer := BitVec.ofNat 24 (posDuration e.latch p), state := .run }

/-- The tick step, `us_tick` being 1 (R239). -/
def tickEngine (followsInvert : Bool) (e : TxEngine) : TxEngine :=
  match e.state with
  | .idle => e
  | .armed => enterSegment followsInvert e (firstPos e.latch)
  | .run =>
    let e' := { e with timer := e.timer - 1 }
    if e'.timer = 0 then enterSegment followsInvert e' (nextPos e.latch e.pos) else e'

/-- `n` tick steps with nothing between them. -/
def tickTimes (followsInvert : Bool) : Nat → TxEngine → TxEngine
  | 0, e => e
  | n + 1, e => tickTimes followsInvert n (tickEngine followsInvert e)

/-- An accepted CMD TXSTART: latch the configuration and arm (R205). -/
def armEngine (l : TxLatch) (e : TxEngine) : TxEngine := { e with latch := l, state := .armed }

end Sys2Proof.Machine
end

