-- ==== Sys2Proof/Machine/Command.lean ====
section
/-! DEFINITION. Machine/Command.lean: the commands, writes of CMD (41_commands.md R200). Each is one atomic
step and stores nothing in CMD. -/

namespace Sys2Proof.Machine

/-- `CMD NOP` (R201). -/
def execCmdNop (s : State) : Host.Outcome State Fault Refusal := noEffect s

/-- `CMD INIT`: the host-owned configuration takes its reset values; the engines and the message are not
touched (R202). -/
def execCmdInit (s : State) : Host.Outcome State Fault Refusal :=
  .next { s with ctrl := ⟨false, false, 0, 0⟩, ap := romRead s.par.table 1,
                 repeatCount := s.par.repeatReset, txValue := 0, txLen := 0,
                 rxTol := s.par.tolReset, selClamped := false }

/-- `CMD SELPROTO id`: ROM entry `id`, or entry 1 with SEL_CLAMPED set when `id` is outside 1..`N_PROTO`
(R203, R361). -/
def execCmdSelproto (arg : BitVec 24) (s : State) : Host.Outcome State Fault Refusal :=
  if 1 ≤ selprotoId arg ∧ selprotoId arg ≤ nProto s.par.table then
    .next { s with ap := romRead s.par.table (selprotoId arg), selClamped := false }
  else .next { s with ap := romRead s.par.table 1, selClamped := true }

/-- `CMD TXSTART`: ignored while a transmission runs (R206) or while no line is bound (R207); otherwise
latch the configuration and arm the engine (R205). -/
def execCmdTxstart (s : State) : Host.Outcome State Fault Refusal :=
  if s.tx.state ≠ .idle then noEffect s
  else if s.ctrl.txEn = false then noEffect s
  else .next { s with tx := armEngine (latchOf s) s.tx }

/-- `CMD CONSUME`: MSG_VALUE takes the sentinel 0, the other message registers stay (R208). -/
def execCmdConsume (s : State) : Host.Outcome State Fault Refusal :=
  .next { s with msg := { s.msg with value := 0 } }

/-- A reserved opcode: no effect (R209, I13; log 11). -/
def execCmdReserved (_op : BitVec 8) (_arg : BitVec 24) (s : State) : Host.Outcome State Fault Refusal :=
  noEffect s

end Sys2Proof.Machine
end

