-- ==== Sys2Proof/Machine/HostRead.lean ====
section
/-! DEFINITION. Machine/HostRead.lean: the sixteen register reads (40_host_registers.md R150). A read drives
the register's word on `bus_rdata` and changes nothing else (20_memory.md R88). -/

namespace Sys2Proof.Machine

/-- `RD CTRL` (R152). -/
def execRdCtrl (s : State) : Host.Outcome State Fault Refusal := driveRead (ctrlWord s.ctrl) s

/-- `RD STATUS` (R154). -/
def execRdStatus (s : State) : Host.Outcome State Fault Refusal := driveRead (statusWord s) s

/-- `RD CMD` (R156). -/
def execRdCmd (s : State) : Host.Outcome State Fault Refusal := driveRead 0 s

/-- `RD PROTO_BASE` (R157). -/
def execRdProtoBase (s : State) : Host.Outcome State Fault Refusal := driveRead (s.ap.base.setWidth 32) s

/-- `RD PROTO_SYNC` (R159). -/
def execRdProtoSync (s : State) : Host.Outcome State Fault Refusal := driveRead (shapeWord s.ap.sync) s

/-- `RD PROTO_ZERO` (R161). -/
def execRdProtoZero (s : State) : Host.Outcome State Fault Refusal := driveRead (shapeWord s.ap.zero) s

/-- `RD PROTO_ONE` (R163). -/
def execRdProtoOne (s : State) : Host.Outcome State Fault Refusal := driveRead (shapeWord s.ap.one) s

/-- `RD PROTO_FLAGS` (R165). -/
def execRdProtoFlags (s : State) : Host.Outcome State Fault Refusal := driveRead (flagsWord s.ap) s

/-- `RD REPEAT` (R167). -/
def execRdRepeat (s : State) : Host.Outcome State Fault Refusal := driveRead (s.repeatCount.setWidth 32) s

/-- `RD TX_VALUE` (R169). -/
def execRdTxValue (s : State) : Host.Outcome State Fault Refusal := driveRead s.txValue s

/-- `RD TX_LEN` (R171). -/
def execRdTxLen (s : State) : Host.Outcome State Fault Refusal := driveRead (s.txLen.setWidth 32) s

/-- `RD RX_TOL` (R173). -/
def execRdRxTol (s : State) : Host.Outcome State Fault Refusal := driveRead (s.rxTol.setWidth 32) s

/-- `RD MSG_VALUE` (R175). -/
def execRdMsgValue (s : State) : Host.Outcome State Fault Refusal := driveRead s.msg.value s

/-- `RD MSG_BITLEN` (R177). -/
def execRdMsgBitlen (s : State) : Host.Outcome State Fault Refusal := driveRead (s.msg.bitlen.setWidth 32) s

/-- `RD MSG_PROTO` (R179). -/
def execRdMsgProto (s : State) : Host.Outcome State Fault Refusal := driveRead (s.msg.proto.setWidth 32) s

/-- `RD MSG_DELAY` (R181). -/
def execRdMsgDelay (s : State) : Host.Outcome State Fault Refusal := driveRead s.msg.delay s

end Sys2Proof.Machine
end

