-- ==== Sys2Proof/Machine/HostWrite.lean ====
section
/-! DEFINITION. Machine/HostWrite.lean: the register writes other than CMD (40_host_registers.md R151). A
write of a read-write register sets its fields and does nothing else; a write of a read-only register
changes no state. -/

namespace Sys2Proof.Machine

/-- `WR CTRL, d` (R153). -/
def execWrCtrl (d : Word) (s : State) : Host.Outcome State Fault Refusal :=
  .next { s with ctrl := ctrlOf d }

/-- `WR STATUS, d`: `d` is ignored (R155). -/
def execWrStatus (_d : Word) (s : State) : Host.Outcome State Fault Refusal := noEffect s

/-- `WR PROTO_BASE, d` (R158). -/
def execWrProtoBase (d : Word) (s : State) : Host.Outcome State Fault Refusal :=
  .next { s with ap := { s.ap with base := low16 d } }

/-- `WR PROTO_SYNC, d` (R160). -/
def execWrProtoSync (d : Word) (s : State) : Host.Outcome State Fault Refusal :=
  .next { s with ap := { s.ap with sync := shapeOf d } }

/-- `WR PROTO_ZERO, d` (R162). -/
def execWrProtoZero (d : Word) (s : State) : Host.Outcome State Fault Refusal :=
  .next { s with ap := { s.ap with zero := shapeOf d } }

/-- `WR PROTO_ONE, d` (R164). -/
def execWrProtoOne (d : Word) (s : State) : Host.Outcome State Fault Refusal :=
  .next { s with ap := { s.ap with one := shapeOf d } }

/-- `WR PROTO_FLAGS, d` (R166). -/
def execWrProtoFlags (d : Word) (s : State) : Host.Outcome State Fault Refusal :=
  .next { s with ap := { s.ap with inverted := invertedOf d } }

/-- `WR REPEAT, d` (R168). -/
def execWrRepeat (d : Word) (s : State) : Host.Outcome State Fault Refusal :=
  .next { s with repeatCount := low16 d }

/-- `WR TX_VALUE, d` (R170). -/
def execWrTxValue (d : Word) (s : State) : Host.Outcome State Fault Refusal :=
  .next { s with txValue := d }

/-- `WR TX_LEN, d` (R172). -/
def execWrTxLen (d : Word) (s : State) : Host.Outcome State Fault Refusal :=
  .next { s with txLen := low6 d }

/-- `WR RX_TOL, d` (R174). -/
def execWrRxTol (d : Word) (s : State) : Host.Outcome State Fault Refusal :=
  .next { s with rxTol := low8 d }

/-- `WR MSG_VALUE, d`: `d` is ignored (R176). -/
def execWrMsgValue (_d : Word) (s : State) : Host.Outcome State Fault Refusal := noEffect s

/-- `WR MSG_BITLEN, d`: `d` is ignored (R178). -/
def execWrMsgBitlen (_d : Word) (s : State) : Host.Outcome State Fault Refusal := noEffect s

/-- `WR MSG_PROTO, d`: `d` is ignored (R180). -/
def execWrMsgProto (_d : Word) (s : State) : Host.Outcome State Fault Refusal := noEffect s

/-- `WR MSG_DELAY, d`: `d` is ignored (R182). -/
def execWrMsgDelay (_d : Word) (s : State) : Host.Outcome State Fault Refusal := noEffect s

end Sys2Proof.Machine
end

