-- ==== Sys2Proof/Machine/Dispatch.lean ====
section
/-! DEFINITION. Machine/Dispatch.lean: one arm per host transaction. -/

namespace Sys2Proof.Machine

def exec (i : Instr) (s : State) : Host.Outcome State Fault Refusal :=
  match i with
  | .rdCtrl => Sys2Proof.Machine.execRdCtrl s
  | .rdStatus => Sys2Proof.Machine.execRdStatus s
  | .rdCmd => Sys2Proof.Machine.execRdCmd s
  | .rdProtoBase => Sys2Proof.Machine.execRdProtoBase s
  | .rdProtoSync => Sys2Proof.Machine.execRdProtoSync s
  | .rdProtoZero => Sys2Proof.Machine.execRdProtoZero s
  | .rdProtoOne => Sys2Proof.Machine.execRdProtoOne s
  | .rdProtoFlags => Sys2Proof.Machine.execRdProtoFlags s
  | .rdRepeat => Sys2Proof.Machine.execRdRepeat s
  | .rdTxValue => Sys2Proof.Machine.execRdTxValue s
  | .rdTxLen => Sys2Proof.Machine.execRdTxLen s
  | .rdRxTol => Sys2Proof.Machine.execRdRxTol s
  | .rdMsgValue => Sys2Proof.Machine.execRdMsgValue s
  | .rdMsgBitlen => Sys2Proof.Machine.execRdMsgBitlen s
  | .rdMsgProto => Sys2Proof.Machine.execRdMsgProto s
  | .rdMsgDelay => Sys2Proof.Machine.execRdMsgDelay s
  | .wrCtrl d => Sys2Proof.Machine.execWrCtrl d s
  | .wrStatus d => Sys2Proof.Machine.execWrStatus d s
  | .cmdNop => Sys2Proof.Machine.execCmdNop s
  | .cmdInit => Sys2Proof.Machine.execCmdInit s
  | .cmdSelproto arg => Sys2Proof.Machine.execCmdSelproto arg s
  | .cmdTxstart => Sys2Proof.Machine.execCmdTxstart s
  | .cmdConsume => Sys2Proof.Machine.execCmdConsume s
  | .cmdReserved op arg => Sys2Proof.Machine.execCmdReserved op arg s
  | .wrProtoBase d => Sys2Proof.Machine.execWrProtoBase d s
  | .wrProtoSync d => Sys2Proof.Machine.execWrProtoSync d s
  | .wrProtoZero d => Sys2Proof.Machine.execWrProtoZero d s
  | .wrProtoOne d => Sys2Proof.Machine.execWrProtoOne d s
  | .wrProtoFlags d => Sys2Proof.Machine.execWrProtoFlags d s
  | .wrRepeat d => Sys2Proof.Machine.execWrRepeat d s
  | .wrTxValue d => Sys2Proof.Machine.execWrTxValue d s
  | .wrTxLen d => Sys2Proof.Machine.execWrTxLen d s
  | .wrRxTol d => Sys2Proof.Machine.execWrRxTol d s
  | .wrMsgValue d => Sys2Proof.Machine.execWrMsgValue d s
  | .wrMsgBitlen d => Sys2Proof.Machine.execWrMsgBitlen d s
  | .wrMsgProto d => Sys2Proof.Machine.execWrMsgProto d s
  | .wrMsgDelay d => Sys2Proof.Machine.execWrMsgDelay d s

end Sys2Proof.Machine
end

