-- ==== Sys2Proof/Machine/Cycle.lean ====
section
/-! DEFINITION. Machine/Cycle.lean: one `clk` cycle (10_state.md R31 to R34, 20_memory.md R92): the inputs
of the cycle, the host's transactions, then the receive engine, then the transmit engine. -/

namespace Sys2Proof.Machine

/-- A cycle in which the environment does nothing: no reset, no tick, no strobe, and `rx_in` at the level
last sampled. DESIGN CHOICE, what an empty input list stands for (log 3). -/
def quietCycle (s : State) : CycleIn where
  rst := false
  usTick := false
  rxIn := s.rx.sync.headD false
  busWe := false
  busRe := false
  busAddr := 0
  busWdata := 0
  edgeGo := false

/-- The inputs of the next cycle. -/
def nextCycle (s : State) : CycleIn := s.inputs.headD (quietCycle s)

/-- The state at the start of a cycle: its inputs taken from the list, `bus_rdata` not driven yet. -/
def beginCycle (s : State) : State := { s with inputs := s.inputs.tail, busRdata := none }

/-- The transactions of a cycle, the read first (R33): the transaction words `{0, bus_addr, -}` and
`{1, bus_addr, bus_wdata}` (R110). -/
def cycleReadWord (c : CycleIn) : TxnWord := txnWord false c.busAddr c.busWdata

/-- See `cycleReadWord`. -/
def cycleWriteWord (c : CycleIn) : TxnWord := txnWord true c.busAddr c.busWdata

/-- Run a step on the state another left, if it left one. -/
def andThen (o : Host.Outcome State Fault Refusal) (f : State → Host.Outcome State Fault Refusal) :
    Host.Outcome State Fault Refusal :=
  match o with
  | .next s => f s
  | .fault r => .fault r
  | .refused r => .refused r

/-- The host's read of a cycle, if `bus_re` is high (R33). -/
def hostRead (c : CycleIn) (s : State) : Host.Outcome State Fault Refusal :=
  if c.busRe then exec (decode (cycleReadWord c)) s else .next s

/-- The host's write of a cycle, if `bus_we` is high (R33). -/
def hostWrite (c : CycleIn) (s : State) : Host.Outcome State Fault Refusal :=
  if c.busWe then exec (decode (cycleWriteWord c)) s else .next s

/-- The host's part of a cycle: the read first, then the write (R33). -/
def hostPhase (c : CycleIn) (s : State) : Host.Outcome State Fault Refusal :=
  andThen (hostRead c s) (hostWrite c)

/-- The receive engine's part: the pending edge step, if it is done in this cycle, with the tolerance as
it stood at the start of the cycle (R34, R370; DEDUCED, log 9), then the front end's registers (R280 to
R285). `start` is the state at the start of the cycle. -/
def receivePhase (c : CycleIn) (start s : State) : State :=
  let s' := if edgeDue c.edgeGo start.rx then consumePending start.rxTol s else s
  { s' with rx := frontEnd s.par.minEdgeSpacing c.usTick c.rxIn (accepted start) start.rx s'.rx }

/-- The transmit engine's part: a tick step in a cycle with `us_tick` (R239). A TXSTART accepted in this
cycle is seen from the next one on (R92). -/
def transmitPhase (c : CycleIn) (start s : State) : State :=
  if c.usTick && decide (start.tx.state ≠ .idle) then
    { s with tx := tickEngine s.par.txFinalFollowsInvert s.tx }
  else s

/-- This cycle's transition is accepted too close to the one before (R287, I4; log 8). DESIGN CHOICE:
only accepted transitions count, as R287 and I4 say, and a discarded one (R282) may come at any time,
though R412 and I19 speak of every change of the line (log 24). -/
def tooClose (s : State) : Bool := accepted s && decide (0 < s.rx.guard)

/-- The engines' part of a cycle, after the host's: receive, then transmit (R92). -/
def enginePhase (c : CycleIn) (start s : State) : State :=
  transmitPhase c start (receivePhase c start s)

/-- One `clk` cycle with inputs `c`, from the state at its start (R31, R92). -/
def clockCycle (c : CycleIn) (s : State) : Host.Outcome State Fault Refusal :=
  if c.rst then .next (applyReset s)
  else if tooClose s then .refused .edgeSpacing
  else andThen (hostPhase c s) fun t => .next (enginePhase c s t)

/-- The next cycle of a block whose parameters a model admits (R11). -/
def runCycle (s : State) : Host.Outcome State Fault Refusal :=
  if paramsWf s.par then clockCycle (nextCycle s) (beginCycle s) else .refused .malformedParams

/-- The inputs `c` with one transaction on the bus, and no reset: a read where `W` is 0, else a write
(R110). -/
def withTransaction (c : CycleIn) (t : TxnWord) : CycleIn :=
  { c with rst := false, busWe := txnW t, busRe := !txnW t, busAddr := txnA t, busWdata := txnD t }

/-- The next cycle carries the transaction `t`; its other inputs, and the cycles after it, stay. -/
def placeTransaction (s : State) (t : TxnWord) : State :=
  { s with inputs := withTransaction (nextCycle s) t :: s.inputs.tail }

end Sys2Proof.Machine
end

