-- ==== Sys2Proof/Machine/Step.lean ====
section
/-! DEFINITION. Machine/Step.lean: one step of the block is one `clk` cycle (log 1). -/

namespace Sys2Proof.Machine

/-- One `clk` cycle: the next inputs are taken from `inputs`, then the host, the receive engine and the
transmit engine act (R92). -/
def step (s : State) : Host.Outcome State Fault Refusal := runCycle s

/-- The next cycle carries the transaction word `w`, numbered as spec/opcode_table.json numbers it, on the
bus (R33, R110). A program is the list of the transactions the host puts on the bus: it comes from outside
the block (log 2). -/
def State.withFetchWord (s : State) (nbits w : Nat) : State :=
  placeTransaction s (BitVec.ofNat 37 (w % 2 ^ nbits))

end Sys2Proof.Machine
end

