-- ==== Sys2Proof/Machine/HostProgram.lean ====
section
/-! DEFINITION. Machine/HostProgram.lean: what host software does with the block: the assembler's value
constructors (30_encoding.md R122), the host's cycles (R124), the source's operations (R125 to R141), and
the codeword encoders (42_transmitter.md R250, R251). These rules bind host software, not the block
(00_scope.md R5); `step` uses none of them (log 22). -/

namespace Sys2Proof.Machine

/-! The assembler's value constructors (R122). -/

/-- `SHAPE(h, l) = zext_32({l, h})`. -/
def shapeValue (h l : BitVec 8) : Word := (l ++ h).setWidth 32

/-- `CTRLV(txen, rxen, txline, rxline)`. -/
def ctrlValue (txEn rxEn : Bool) (txLine rxLine : BitVec 8) : Word :=
  (rxLine ++ txLine ++ 0#6 ++ BitVec.ofBool rxEn ++ BitVec.ofBool txEn).setWidth 32

/-! The host as a sequential caller: one transaction a cycle, and its one loop (20_memory.md R90). -/

/-- What host software does next: one transaction, or the loop `WAIT_TX` (R124). -/
inductive HostAction where
  | transact (i : Instr)
  | waitTx
deriving DecidableEq, Repr

/-- The transaction an action puts on the bus; `WAIT_TX` reads STATUS (R124). -/
def hostInstr : HostAction → Instr
  | .transact i => i
  | .waitTx => .rdStatus

/-- The action is not finished by the cycle that led to `t`: a `WAIT_TX` whose read returned a word with
bit 0 set (R124). -/
def hostRepeats (a : HostAction) (t : State) : Bool :=
  match a with
  | .transact _ => false
  | .waitTx => (t.busRdata.getD 0).getLsbD 0

/-- What is left of a program after the cycle of its first action. -/
def hostRest (a : HostAction) (rest : List HostAction) (t : State) : List HostAction :=
  if hostRepeats a t then a :: rest else rest

/-- One cycle of a block and its host: the program's first action on the bus and no reset, the other
inputs of the cycle the environment's. With nothing left the inputs are taken as they are. -/
def hostCycle (program : List HostAction) (s : State) :
    Host.Outcome (List HostAction × State) Fault Refusal :=
  match program with
  | [] =>
    match step s with
    | .next t => .next ([], t)
    | .fault r => .fault r
    | .refused r => .refused r
  | a :: rest =>
    match step (placeTransaction s (encode (hostInstr a))) with
    | .next t => .next (hostRest a rest t, t)
    | .fault r => .fault r
    | .refused r => .refused r

/-- `n` cycles of a block and its host. -/
def hostRun : Nat → List HostAction → State → Host.Outcome (List HostAction × State) Fault Refusal
  | 0, program, s => .next (program, s)
  | n + 1, program, s =>
    match hostCycle program s with
    | .next (program', t) => hostRun n program' t
    | .fault r => .fault r
    | .refused r => .refused r

/-! The source's operations. An operation that first reads CTRL takes the value `c` the read returned; its
transactions are the read and then the write. -/

/-- `initialize()` (R125). -/
def opInitialize : List Instr := [.cmdInit]

/-- `selectProtocol(id)` (R126). -/
def opSelectProtocol (id : BitVec 24) : List Instr := [.cmdSelproto id]

/-- `selectProtocol(customRecord)` (R127). -/
def opSelectCustom (p : Protocol) : List Instr :=
  [.wrProtoBase (p.base.setWidth 32), .wrProtoSync (shapeValue p.sync.high p.sync.low),
   .wrProtoZero (shapeValue p.zero.high p.zero.low), .wrProtoOne (shapeValue p.one.high p.one.low),
   .wrProtoFlags ((BitVec.ofBool p.inverted).setWidth 32)]

/-- `setPulseLength(micros)` (R128). -/
def opSetPulseLength (micros : BitVec 16) : List Instr := [.wrProtoBase (micros.setWidth 32)]

/-- `setRepeatTransmit(count)` (R129). -/
def opSetRepeatTransmit (count : BitVec 16) : List Instr := [.wrRepeat (count.setWidth 32)]

/-- `enableTransmit(lineId)` (R130). -/
def opEnableTransmit (c : Word) (line : BitVec 8) : List Instr :=
  [.rdCtrl, .wrCtrl ((c &&& 0xFFFF00FE#32) ||| (line.setWidth 32 <<< 8) ||| 1#32)]

/-- `disableTransmit()` (R131). -/
def opDisableTransmit (c : Word) : List Instr := [.rdCtrl, .wrCtrl (c &&& 0xFFFFFFFE#32)]

/-- `WAIT_TX` (R124): the polling loop. -/
def opWaitTx : List HostAction := [.waitTx]

/-- `transmitRaw(value, bitLength)`; its `WAIT_TX` keeps the blocking contract (R132). -/
def opTransmitRaw (value : Word) (len : BitVec 6) : List HostAction :=
  [.transact (.wrTxValue value), .transact (.wrTxLen (len.setWidth 32)), .transact .cmdTxstart] ++ opWaitTx

/-- `enableReceive(lineId)` (R136). -/
def opEnableReceive (c : Word) (line : BitVec 8) : List Instr :=
  [.rdCtrl, .wrCtrl ((c &&& 0xFF00FFFD#32) ||| (line.setWidth 32 <<< 16) ||| 2#32)]

/-- `disableReceive()` (R137). -/
def opDisableReceive (c : Word) : List Instr := [.rdCtrl, .wrCtrl (c &&& 0xFFFFFFFD#32)]

/-- `setReceiveTolerancePercent(pct)` (R138). -/
def opSetReceiveTolerance (pct : BitVec 8) : List Instr := [.wrRxTol (pct.setWidth 32)]

/-- `isAvailable()`: read STATUS, the result is bit 1 (R139). -/
def opIsAvailable : List Instr := [.rdStatus]

/-- The result of `isAvailable()` (R139). -/
def availableIn (status : Word) : Bool := status.getLsbD 1

/-- `consume()` and `resetAvailable()` (R140). -/
def opConsume : List Instr := [.cmdConsume]

/-- The accessors of the last message, value, bit length, protocol and delay (R141). -/
def opAccessors : List Instr := [.rdMsgValue, .rdMsgBitlen, .rdMsgProto, .rdMsgDelay]

/-! The codeword encoders (R250, R251). -/

/-- A tri-state symbol '0', 'F' or '1' (R250). -/
inductive TriSymbol where
  | zero | float | one
deriving DecidableEq, Repr

/-- The two bits of a symbol (R250). -/
def triCode : TriSymbol → Nat
  | .zero => 0
  | .float => 1
  | .one => 3

/-- The symbol a character stands for; no other character is one (R250, I16). -/
def triSymbol (c : Char) : Option TriSymbol :=
  if c = '0' then some .zero else if c = 'F' then some .float else if c = '1' then some .one else none

/-- `encodeTriState(word)`: value and bit length (R250). -/
def encodeTriState (word : List TriSymbol) : Nat × Nat :=
  (word.foldl (fun v c => v * 4 + triCode c) 0, 2 * word.length)

/-- `encodeBinary(word)`: value and bit length; any symbol but '0' counts as 1 (R251). -/
def encodeBinary (word : List Char) : Nat × Nat :=
  (word.foldl (fun v c => v * 2 + (if c = '0' then 0 else 1)) 0, word.length)

/-- `transmitRaw` of an encoder's result; none, the host's refusal, where it does not fit TX_VALUE (R250,
R251, I16). -/
def opTransmitEncoded (code : Nat × Nat) : Option (List HostAction) :=
  if code.2 ≤ 32 then some (opTransmitRaw (BitVec.ofNat 32 code.1) (BitVec.ofNat 6 code.2)) else none

/-- `transmitBinary(word)` (R133). -/
def opTransmitBinary (word : List Char) : Option (List HostAction) := opTransmitEncoded (encodeBinary word)

/-- `transmitTriState(word)`; none for a word with a symbol outside the alphabet too (R134, R250, I16). -/
def opTransmitTriState (word : List Char) : Option (List HostAction) :=
  match word.mapM triSymbol with
  | some symbols => opTransmitEncoded (encodeTriState symbols)
  | none => none

/-- `switchOn(...)` and `switchOff(...)` (R135), given what the family's builder answered, none being its
`InvalidParameter`: nothing is then transmitted. The builder is outside the block (00_scope.md R5; log 22). -/
def opSwitch (built : Option (List Char)) : Option (List HostAction) :=
  match built with
  | some word => opTransmitTriState word
  | none => some []

/-- One pass of the sequence of 70_reset_and_hazards.md R409; the host starts again before the CONSUME if
`messageTorn` holds of its two reads of MSG_VALUE. -/
def opReadMessage : List Instr :=
  [.rdMsgValue, .rdMsgBitlen, .rdMsgProto, .rdMsgDelay, .rdMsgValue, .cmdConsume]

/-- The two reads of MSG_VALUE differ, or no message was available (R409). -/
def messageTorn (first second : Word) : Bool := decide (first ≠ second) || decide (first = 0)

end Sys2Proof.Machine
end

