-- ==== Sys2Proof/Safety.lean ====
section
/-! DEFINITION. Safety.lean: what holds of the block between two cycles: the invariants of 10_state.md R70
and R71 and what the rules of the transmit engine, the front end and the message keep. -/

namespace Sys2Proof.Machine

/-- The current segment of a running transmission is one of `txSegments(L)` (R238): its frame exists, and
a data phase names a data bit. -/
def TxPos.inRange (l : TxLatch) (p : TxPos) : Prop :=
  p.rep.toNat < l.rep.toNat ∧
    ((p.phase = .da ∨ p.phase = .di) → p.bit.toNat < l.len.toNat)

/-- The transmit engine (R238, R239): while a segment is emitted, its position is in range, its level is on
the line, and between 1 and all of its ticks are left. -/
def TxEngine.Inv (e : TxEngine) : Prop :=
  e.state = .run →
    e.pos.inRange e.latch ∧ e.level = posLevel e.latch e.pos ∧
      0 < e.timer.toNat ∧ e.timer.toNat ≤ posDuration e.latch e.pos

/-- The receive engine: the chain has `SYNC_STAGES` flops (R61); R70; R71; and no transition is waiting
longer than `MIN_EDGE_SPACING` allows (R285, R287). -/
structure RxEngine.Inv (par : Params) (r : RxEngine) : Prop where
  chain : r.sync.length = par.syncStages
  confirm : r.repeatConfirmCount ≤ 1
  count : r.changeCount ≤ Config.cap
  frame : r.repeatConfirmCount = 1 → 1 ≤ r.changeCount ∧ Config.sepLimit < (capRead r.buffer 0).toNat
  guard : r.guard ≤ par.minEdgeSpacing - 1

/-- The message: nothing published since reset, or the fields of a publish (R179, R331, R335), its value
perhaps consumed since. -/
def Message.Inv (par : Params) (m : Message) : Prop :=
  m = ⟨0, 0, 0, 0⟩ ∨
    (1 ≤ m.proto.toNat ∧ m.proto.toNat ≤ nProto par.table ∧
      3 ≤ m.bitlen.toNat ∧ m.bitlen.toNat ≤ 33 ∧ 16 ≤ m.delay.toNat)

/-- The block's invariant. -/
structure State.Inv (s : State) : Prop where
  params : paramsWf s.par = true
  tx : s.tx.Inv
  rx : s.rx.Inv s.par
  msg : s.msg.Inv s.par

end Sys2Proof.Machine
end

