-- ==== Sys2Proof/Certificates/Slice0/Obligations.lean ====
section
/-! DEFINITION. Certificates/Slice0/Obligations.lean: the statements for the provers. Each docstring names the
rules of spec/ a statement formalises. Every statement about the machine is made for every state, and so
for every value of the block's parameters (`State.par`). -/

namespace Sys2Proof.Machine

/-! Words the statements use. -/

/-- The opcode map of 30_encoding.md R115: one row, the word's fixed bits under a mask. -/
structure MapRow where
  mnemonic : String
  mask : TxnWord
  value : TxnWord

/-- A row of the map selected by `W` and `A` alone. -/
def addressRow (name : String) (w : Bool) (a : BitVec 4) : MapRow :=
  ⟨name, 0x1F00000000#37, txnWord w a 0⟩

/-- A row of the map selected by `W`, `A` and `OP`. -/
def commandRow (name : String) (op : BitVec 8) : MapRow := ⟨name, 0x1FFF000000#37, cmdWord op 0⟩

/-- The map of R115, in its order. -/
def opcodeMap : List MapRow :=
  [addressRow "RD_CTRL" false 0, addressRow "RD_STATUS" false 1, addressRow "RD_CMD" false 2,
   addressRow "RD_PROTO_BASE" false 3, addressRow "RD_PROTO_SYNC" false 4,
   addressRow "RD_PROTO_ZERO" false 5, addressRow "RD_PROTO_ONE" false 6,
   addressRow "RD_PROTO_FLAGS" false 7, addressRow "RD_REPEAT" false 8] ++
  [addressRow "RD_TX_VALUE" false 9, addressRow "RD_TX_LEN" false 10, addressRow "RD_RX_TOL" false 11,
   addressRow "RD_MSG_VALUE" false 12, addressRow "RD_MSG_BITLEN" false 13,
   addressRow "RD_MSG_PROTO" false 14, addressRow "RD_MSG_DELAY" false 15] ++
  [addressRow "WR_CTRL" true 0, addressRow "WR_STATUS" true 1, commandRow "CMD_NOP" 0,
   commandRow "CMD_INIT" 1, commandRow "CMD_SELPROTO" 2, commandRow "CMD_TXSTART" 3,
   commandRow "CMD_CONSUME" 4, addressRow "CMD_RESERVED" true 2] ++
  [addressRow "WR_PROTO_BASE" true 3, addressRow "WR_PROTO_SYNC" true 4,
   addressRow "WR_PROTO_ZERO" true 5, addressRow "WR_PROTO_ONE" true 6,
   addressRow "WR_PROTO_FLAGS" true 7, addressRow "WR_REPEAT" true 8, addressRow "WR_TX_VALUE" true 9] ++
  [addressRow "WR_TX_LEN" true 10, addressRow "WR_RX_TOL" true 11, addressRow "WR_MSG_VALUE" true 12,
   addressRow "WR_MSG_BITLEN" true 13, addressRow "WR_MSG_PROTO" true 14,
   addressRow "WR_MSG_DELAY" true 15]

/-- The first row a word matches (R115). -/
def firstRow (t : TxnWord) : Option MapRow := opcodeMap.find? fun r => t &&& r.mask == r.value

/-- The bits of a word that `Instr` keeps as operands: all but `D` of a read (R111) and `ARG` of a defined
command that ignores it (R114). That `ARG` of a reserved command and `D` of an ignored write are kept,
though R114 and R115 mark them ignored, is the model's choice (log 20). -/
def meaningfulBits : Instr → TxnWord
  | .cmdNop | .cmdInit | .cmdTxstart | .cmdConsume => 0x1FFF000000#37
  | .cmdSelproto _ | .cmdReserved _ _ => 0x1FFFFFFFFF#37
  | .wrCtrl _ | .wrStatus _ | .wrProtoBase _ | .wrProtoSync _ | .wrProtoZero _ | .wrProtoOne _
  | .wrProtoFlags _ | .wrRepeat _ | .wrTxValue _ | .wrTxLen _ | .wrRxTol _ | .wrMsgValue _
  | .wrMsgBitlen _ | .wrMsgProto _ | .wrMsgDelay _ => 0x1FFFFFFFFF#37
  | .rdCtrl | .rdStatus | .rdCmd | .rdProtoBase | .rdProtoSync | .rdProtoZero | .rdProtoOne
  | .rdProtoFlags | .rdRepeat | .rdTxValue | .rdTxLen | .rdRxTol | .rdMsgValue | .rdMsgBitlen
  | .rdMsgProto | .rdMsgDelay => 0x1F00000000#37

/-- Every word that reads address `a`, whatever its data bits, is `i` (R111). -/
def ReadAt (a : BitVec 4) (i : Instr) : Prop := ∀ d, decode (txnWord false a d) = i

/-- Every word that writes `d` at address `a` is `i d` (R112). -/
def WriteAt (a : BitVec 4) (i : Word → Instr) : Prop := ∀ d, decode (txnWord true a d) = i d

/-- Every word that writes `op` and `arg` to CMD is `i arg` (R113). -/
def CommandAt (op : BitVec 8) (i : BitVec 24 → Instr) : Prop := ∀ arg, decode (cmdWord op arg) = i arg

/-- The state a read leaves: `bus_rdata` driven with `w`, everything else as before (R33, R88). -/
def afterRead (s : State) (w : Word) : State := { s with busRdata := some w }

/-- Writing `d` with `write` and then reading with `read` returns the bits of `d` under `mask`. -/
def ReadsBack (write : Word → Instr) (read : Instr) (mask : Word) : Prop :=
  ∀ (d : Word) (s : State), ∃ t, exec (write d) s = .next t ∧ exec read t = .next (afterRead t (d &&& mask))

/-- A cycle that carries no CMD SELPROTO and no CMD INIT. -/
def NoSelection (c : CycleIn) : Prop :=
  c.busWe = true → decode (cycleWriteWord c) ≠ .cmdInit ∧ ∀ arg, decode (cycleWriteWord c) ≠ .cmdSelproto arg

/-- The message after the host's part of a cycle: MSG_VALUE 0 if it writes CMD CONSUME, else as before (R208,
R92). -/
def hostMessage (c : CycleIn) (m : Message) : Message :=
  if c.busWe = true ∧ decode (cycleWriteWord c) = .cmdConsume then { m with value := 0 } else m

/-- The shape sent for position `i`: bit `i` of the value up to 31, bit 0 from 32 on (R234, R235). -/
def sentShape (l : TxLatch) (i : Nat) : Shape :=
  if i ≤ 31 ∧ l.value.getLsbD i = true then l.one else l.zero

/-- Run transactions one after another. -/
def execAll : List Instr → State → Host.Outcome State Fault Refusal
  | [], s => .next s
  | i :: is, s => andThen (exec i s) (execAll is)

/-- The walk of R240: the segments at a position and at the positions `next` gives, `n` of them at most. -/
def walk (l : TxLatch) : Nat → Option TxPos → List (Bool × Nat)
  | 0, _ => []
  | _ + 1, none => []
  | n + 1, some p => (posLevel l p, posDuration l p) :: walk l n (nextPos l p)

/-- The level of a waveform `k` ticks after it begins, none once it has ended (R244). -/
def levelAt : List (Bool × Nat) → Nat → Option Bool
  | [], _ => none
  | (v, n) :: rest, k => if k < n then some v else levelAt rest (k - n)

/-- The distance of two durations. -/
def distance (a b : Word) : Nat := ((a.toNat : Int) - (b.toNat : Int)).natAbs

/-- Two gaps are within the repeat-gap window (R290, R14). -/
def GapsMatch (par : Params) (d g : Word) : Prop :=
  if par.gapMatchInclusive then distance d g ≤ 200 else distance d g < 200

/-- The capture state after an edge step that stored `d` at entry `i`: entry `i` is `d`, every other entry
is as before. -/
def StoredAt (i : Nat) (d : Word) (r r' : RxEngine) : Prop :=
  ∀ j, j < 67 → capRead r'.buffer j = if j = i then d else capRead r.buffer j

/-- Everything an edge step leaves alone: all of the state but the message and the capture buffer with its
two counters. -/
def OnlyCapture (s t : State) : Prop :=
  t = { s with msg := t.msg, rx := { s.rx with buffer := t.rx.buffer, changeCount := t.rx.changeCount,
                                               repeatConfirmCount := t.rx.repeatConfirmCount } }

/-- A pair of durations within tolerance of a shape, in the words of R325 and R326. -/
def PairWithin (inclusive : Bool) (h : Shape) (unit tol : Nat) (a b : Word) : Prop :=
  if inclusive then
    ((a.toNat : Int) - h.high.toNat * unit).natAbs ≤ tol ∧ ((b.toNat : Int) - h.low.toNat * unit).natAbs ≤ tol
  else
    ((a.toNat : Int) - h.high.toNat * unit).natAbs < tol ∧ ((b.toNat : Int) - h.low.toNat * unit).natAbs < tol

/-- What the pair at entries `i` and `i + 1` appends: 0 if it matches the zero shape, 1 if it matches the
one shape and not the zero shape (R327). -/
def PairDecodes (inclusive : Bool) (p : Protocol) (unit tol : Nat) (buf : Vector Word Config.cap) (i : Nat)
    (b : Bool) : Prop :=
  if b then ¬ PairWithin inclusive p.zero unit tol (capRead buf i) (capRead buf (i + 1)) ∧
    PairWithin inclusive p.one unit tol (capRead buf i) (capRead buf (i + 1))
  else PairWithin inclusive p.zero unit tol (capRead buf i) (capRead buf (i + 1))

/-- Bits, the first the most significant, in a 32-bit accumulator that drops what is shifted out (R327). -/
def accumulate (bits : List Bool) : Word :=
  bits.foldl (fun acc b => acc <<< 1 ||| (if b then 1 else 0)) 0

/-- The durations of a clean frame of the low `k` bits of `v`, as R296 gives them: the gap that began it,
the data durations, and the rest of the sync shape (before the data for an inverted protocol, R324). -/
def cleanFrame (p : Protocol) (v : Word) (k : Nat) : List Word :=
  let l : TxLatch := ⟨p.base, p.sync, p.zero, p.one, p.inverted, v, BitVec.ofNat 6 k, 1⟩
  let data := (bitSegments l k).map fun seg => BitVec.ofNat 32 seg.2
  let high := BitVec.ofNat 32 (p.base.toNat * p.sync.high.toNat)
  let low := BitVec.ofNat 32 (p.base.toNat * p.sync.low.toNat)
  if p.inverted then high :: low :: data else low :: (data ++ [high])

/-- The one shape does not fall within tolerance of the zero shape (R338). -/
def ShapesApart (inclusive : Bool) (p : Protocol) (tol : Nat) : Prop :=
  let dHigh := ((p.one.high.toNat : Int) - p.zero.high.toNat).natAbs * p.base.toNat
  let dLow := ((p.one.low.toNat : Int) - p.zero.low.toNat).natAbs * p.base.toNat
  if inclusive then tol < dHigh ∨ tol < dLow else tol ≤ dHigh ∨ tol ≤ dLow

/-- The reset values R69 gives (it leaves `tx_phase`, `tx_bit`, `tx_rep`, `L`, `rx_pend_dur` and the buffer
unspecified, and nothing is said of them here). -/
def HasResetValues (p : Params) (t : State) : Prop :=
  t.ctrl = ⟨false, false, 0, 0⟩ ∧ t.selClamped = false ∧ t.ap = p.table.first ∧
  t.repeatCount = p.repeatReset ∧ t.txValue = 0 ∧ t.txLen = 0 ∧ t.rxTol = p.tolReset ∧
  t.msg = ⟨0, 0, 0, 0⟩ ∧ t.tx.state = .idle ∧ t.tx.timer = 0 ∧ t.tx.level = false ∧
  t.rx.sync = List.replicate p.syncStages false ∧ t.rx.prev = false ∧ t.rx.since = 0 ∧
  t.rx.pend = false ∧ t.rx.changeCount = 0 ∧ t.rx.repeatConfirmCount = 0 ∧ t.par = p

/-- The configuration the host owns (R68). -/
def SameConfiguration (s t : State) : Prop :=
  t.ctrl = s.ctrl ∧ t.ap = s.ap ∧ t.repeatCount = s.repeatCount ∧ t.txValue = s.txValue ∧
  t.txLen = s.txLen ∧ t.rxTol = s.rxTol ∧ t.selClamped = s.selClamped

end Sys2Proof.Machine

open Sys2Proof Sys2Proof.Machine

/-! ## Encoding -/

/-- Decoding the word of any well-formed instruction gives the instruction back, every operand at every
value (30_encoding.md R110 to R116). -/
def Obligations.DecodeOfEncodeIsIdentity : Prop :=
  ∀ i : Instr, i.WellFormed → decode (encode i) = i

/-- Every 37-bit word decodes to the row of R115's map it matches first (R115, R116). -/
def Obligations.DecodeFollowsOpcodeMap : Prop :=
  ∀ t : TxnWord, (firstRow t).map (·.mnemonic) = some (decode t).mnemonic ∧ (decode t).WellFormed

/-- Encoding what a word decodes to gives the word's operand and selector bits, and 0 elsewhere: no operand
bit is lost or moved (R111 to R114). Which bits are operands, and that `encode` clears the others, is the
model's choice (log 20). -/
def Obligations.EncodeOfDecodeKeepsMeaningfulBits : Prop :=
  ∀ t : TxnWord, encode (decode t) = t &&& meaningfulBits (decode t)

/-- Words of 95_test_vectors.md section 2.1, written out from R110 to R115, decode to their rows. -/
def Obligations.SpecWordsDecode : Prop :=
  decode 0x0C12345678#37 = .rdMsgValue ∧ decode 0x1000000501#37 = .wrCtrl 0x501#32 ∧
  decode 0x1200FFFFFF#37 = .cmdNop ∧ decode 0x1202000003#37 = .cmdSelproto 3#24 ∧
  decode 0x12FF123456#37 = .cmdReserved 0xFF#8 0x123456#24 ∧ decode 0x1B0000003C#37 = .wrRxTol 60#32

/-! ## Register reads -/

/-- `RD CTRL` returns the enables and line identifiers at their positions, reserved bits 0 (R152, R42). -/
def Obligations.ReadCtrlReturnsItsFields : Prop :=
  ReadAt 0 .rdCtrl ∧ ∀ s : State, ∃ w, exec .rdCtrl s = .next (afterRead s w) ∧
    w.getLsbD 0 = s.ctrl.txEn ∧ w.getLsbD 1 = s.ctrl.rxEn ∧ w.extractLsb' 2 6 = 0 ∧
    w.extractLsb' 8 8 = s.ctrl.txLine ∧ w.extractLsb' 16 8 = s.ctrl.rxLine ∧ w.extractLsb' 24 8 = 0

/-- `RD STATUS` returns TX_BUSY, MSG_AVAIL and SEL_CLAMPED (R154, R43). -/
def Obligations.ReadStatusReturnsItsFlags : Prop :=
  ReadAt 1 .rdStatus ∧ ∀ s : State, ∃ w, exec .rdStatus s = .next (afterRead s w) ∧
    (w.getLsbD 0 = true ↔ s.tx.state ≠ .idle) ∧ (w.getLsbD 1 = true ↔ s.msg.value ≠ 0) ∧
    w.getLsbD 2 = s.selClamped ∧ w.extractLsb' 3 29 = 0

/-- The reads of the active protocol registers return its fields (R157, R159, R161, R163, R165). -/
def Obligations.ReadProtocolReturnsItsFields : Prop :=
  (ReadAt 3 .rdProtoBase ∧ ReadAt 4 .rdProtoSync ∧ ReadAt 5 .rdProtoZero ∧ ReadAt 6 .rdProtoOne ∧
    ReadAt 7 .rdProtoFlags) ∧
  ∀ s : State,
    (∃ w, exec .rdProtoBase s = .next (afterRead s w) ∧ w.toNat = s.ap.base.toNat) ∧
    (∃ w, exec .rdProtoSync s = .next (afterRead s w) ∧
      w.toNat = s.ap.sync.high.toNat + 256 * s.ap.sync.low.toNat) ∧
    (∃ w, exec .rdProtoZero s = .next (afterRead s w) ∧
      w.toNat = s.ap.zero.high.toNat + 256 * s.ap.zero.low.toNat) ∧
    (∃ w, exec .rdProtoOne s = .next (afterRead s w) ∧
      w.toNat = s.ap.one.high.toNat + 256 * s.ap.one.low.toNat) ∧
    (∃ w, exec .rdProtoFlags s = .next (afterRead s w) ∧ w.toNat = s.ap.inverted.toNat)

/-- The reads of REPEAT, TX_VALUE, TX_LEN and RX_TOL return their zero-extended fields (R167, R169, R171,
R173). -/
def Obligations.ReadTransmitAndToleranceReturnTheirFields : Prop :=
  (ReadAt 8 .rdRepeat ∧ ReadAt 9 .rdTxValue ∧ ReadAt 10 .rdTxLen ∧ ReadAt 11 .rdRxTol) ∧
  ∀ s : State,
    (∃ w, exec .rdRepeat s = .next (afterRead s w) ∧ w.toNat = s.repeatCount.toNat) ∧
    exec .rdTxValue s = .next (afterRead s s.txValue) ∧
    (∃ w, exec .rdTxLen s = .next (afterRead s w) ∧ w.toNat = s.txLen.toNat) ∧
    (∃ w, exec .rdRxTol s = .next (afterRead s w) ∧ w.toNat = s.rxTol.toNat)

/-- The reads of the message registers return the last message, and CMD reads 0 (R156, R175, R177, R179,
R181). -/
def Obligations.ReadMessageReturnsItsFields : Prop :=
  (ReadAt 2 .rdCmd ∧ ReadAt 12 .rdMsgValue ∧ ReadAt 13 .rdMsgBitlen ∧ ReadAt 14 .rdMsgProto ∧
    ReadAt 15 .rdMsgDelay) ∧
  ∀ s : State,
    exec .rdCmd s = .next (afterRead s 0) ∧
    exec .rdMsgValue s = .next (afterRead s s.msg.value) ∧
    (∃ w, exec .rdMsgBitlen s = .next (afterRead s w) ∧ w.toNat = s.msg.bitlen.toNat) ∧
    (∃ w, exec .rdMsgProto s = .next (afterRead s w) ∧ w.toNat = s.msg.proto.toNat) ∧
    exec .rdMsgDelay s = .next (afterRead s s.msg.delay)

/-- Reading any register changes no state (R88, R150). -/
def Obligations.ReadsHaveNoSideEffect : Prop :=
  ∀ (i : Instr) (s : State), i.isRead = true → ∃ w, exec i s = .next (afterRead s w)

/-! ## Register writes -/

/-- `WR CTRL, d`, the words with `W` = 1 and `A` = 0, sets the four fields from `d` and nothing else (R153). -/
def Obligations.WriteCtrlSetsItsFields : Prop :=
  WriteAt 0 .wrCtrl ∧
  ∀ (d : Word) (s : State), exec (.wrCtrl d) s =
    .next { s with ctrl := { txEn := d.getLsbD 0, rxEn := d.getLsbD 1,
                             txLine := d.extractLsb' 8 8, rxLine := d.extractLsb' 16 8 } }

/-- The writes of the active protocol registers set their field alone (R158, R160, R162, R164, R166). -/
def Obligations.WriteProtocolSetsOneField : Prop :=
  (WriteAt 3 .wrProtoBase ∧ WriteAt 4 .wrProtoSync ∧ WriteAt 5 .wrProtoZero ∧ WriteAt 6 .wrProtoOne ∧
    WriteAt 7 .wrProtoFlags) ∧
  ∀ (d : Word) (s : State),
    exec (.wrProtoBase d) s = .next { s with ap := { s.ap with base := d.extractLsb' 0 16 } } ∧
    exec (.wrProtoSync d) s =
      .next { s with ap := { s.ap with sync := ⟨d.extractLsb' 0 8, d.extractLsb' 8 8⟩ } } ∧
    exec (.wrProtoZero d) s =
      .next { s with ap := { s.ap with zero := ⟨d.extractLsb' 0 8, d.extractLsb' 8 8⟩ } } ∧
    exec (.wrProtoOne d) s =
      .next { s with ap := { s.ap with one := ⟨d.extractLsb' 0 8, d.extractLsb' 8 8⟩ } } ∧
    exec (.wrProtoFlags d) s = .next { s with ap := { s.ap with inverted := d.getLsbD 0 } }

/-- The writes of REPEAT, TX_VALUE, TX_LEN and RX_TOL set their field alone (R168, R170, R172, R174). -/
def Obligations.WriteTransmitAndToleranceSetOneField : Prop :=
  (WriteAt 8 .wrRepeat ∧ WriteAt 9 .wrTxValue ∧ WriteAt 10 .wrTxLen ∧ WriteAt 11 .wrRxTol) ∧
  ∀ (d : Word) (s : State),
    exec (.wrRepeat d) s = .next { s with repeatCount := d.extractLsb' 0 16 } ∧
    exec (.wrTxValue d) s = .next { s with txValue := d } ∧
    exec (.wrTxLen d) s = .next { s with txLen := d.extractLsb' 0 6 } ∧
    exec (.wrRxTol d) s = .next { s with rxTol := d.extractLsb' 0 8 }

/-- Writes of STATUS and of the message registers change no state (R155, R176, R178, R180, R182). -/
def Obligations.WriteReadOnlyHasNoEffect : Prop :=
  (WriteAt 1 .wrStatus ∧ WriteAt 12 .wrMsgValue ∧ WriteAt 13 .wrMsgBitlen ∧ WriteAt 14 .wrMsgProto ∧
    WriteAt 15 .wrMsgDelay) ∧
  ∀ (d : Word) (s : State),
    exec (.wrStatus d) s = .next s ∧ exec (.wrMsgValue d) s = .next s ∧
    exec (.wrMsgBitlen d) s = .next s ∧ exec (.wrMsgProto d) s = .next s ∧
    exec (.wrMsgDelay d) s = .next s

/-- Reading a read-write register after writing it returns the written bits of its fields, 0 in its reserved
bits (R58, R150, R151). -/
def Obligations.ReadAfterWriteReturnsWritableBits : Prop :=
  ReadsBack .wrCtrl .rdCtrl 0x00FFFF03#32 ∧ ReadsBack .wrProtoBase .rdProtoBase 0x0000FFFF#32 ∧
  ReadsBack .wrProtoSync .rdProtoSync 0x0000FFFF#32 ∧ ReadsBack .wrProtoZero .rdProtoZero 0x0000FFFF#32 ∧
  ReadsBack .wrProtoOne .rdProtoOne 0x0000FFFF#32 ∧ ReadsBack .wrProtoFlags .rdProtoFlags 0x00000001#32 ∧
  ReadsBack .wrRepeat .rdRepeat 0x0000FFFF#32 ∧ ReadsBack .wrTxValue .rdTxValue 0xFFFFFFFF#32 ∧
  ReadsBack .wrTxLen .rdTxLen 0x0000003F#32 ∧ ReadsBack .wrRxTol .rdRxTol 0x000000FF#32

/-- Two equal writes leave the same state as one, but for TXSTART (R88). -/
def Obligations.WritesOtherThanTxstartAreIdempotent : Prop :=
  ∀ (i : Instr) (s : State), i.isRead = false → i ≠ .cmdTxstart →
    ∃ t, exec i s = .next t ∧ exec i t = .next t

/-! ## Commands -/

/-- NOP and every reserved opcode change no state (R201, R209). -/
def Obligations.NopAndReservedHaveNoEffect : Prop :=
  (CommandAt 0 fun _ => .cmdNop) ∧ (∀ op : BitVec 8, 5 ≤ op.toNat → CommandAt op (.cmdReserved op)) ∧
  ∀ (op : BitVec 8) (arg : BitVec 24) (s : State),
    exec .cmdNop s = .next s ∧ exec (.cmdReserved op arg) s = .next s

/-- INIT returns the host-owned configuration to its reset values and touches nothing else (R202). -/
def Obligations.InitRestoresConfigurationOnly : Prop :=
  (CommandAt 1 fun _ => .cmdInit) ∧
  ∀ s : State, exec .cmdInit s =
    .next { s with ctrl := ⟨false, false, 0, 0⟩, ap := s.par.table.first,
                   repeatCount := s.par.repeatReset, txValue := 0, txLen := 0,
                   rxTol := s.par.tolReset, selClamped := false }

/-- SELPROTO copies ROM entry `id` into the active protocol; an `id` outside 1..`N_PROTO` selects entry 1 and
sets SEL_CLAMPED (R203, R361). -/
def Obligations.SelprotoLoadsOrClamps : Prop :=
  CommandAt 2 .cmdSelproto ∧
  ∀ (arg : BitVec 24) (s : State),
    (∀ rec, 1 ≤ arg.toNat → (s.par.table.first :: s.par.table.rest)[arg.toNat - 1]? = some rec →
      exec (.cmdSelproto arg) s = .next { s with ap := rec, selClamped := false }) ∧
    (arg.toNat = 0 ∨ s.par.table.rest.length + 1 < arg.toNat →
      exec (.cmdSelproto arg) s = .next { s with ap := s.par.table.first, selClamped := true })

/-- TXSTART: accepted when idle and bound, it latches the whole configuration and arms the engine; otherwise
it changes no state (R205, R206, R207, R60). -/
def Obligations.TxstartLatchesOrIsIgnored : Prop :=
  (CommandAt 3 fun _ => .cmdTxstart) ∧
  ∀ s : State,
    (s.tx.state = .idle → s.ctrl.txEn = true →
      exec .cmdTxstart s =
        .next { s with tx := { s.tx with
          state := .armed,
          latch := { base := s.ap.base, sync := s.ap.sync, zero := s.ap.zero, one := s.ap.one,
                     inv := s.ap.inverted, value := s.txValue, len := s.txLen,
                     rep := s.repeatCount } } }) ∧
    (s.tx.state ≠ .idle → exec .cmdTxstart s = .next s) ∧
    (s.tx.state = .idle → s.ctrl.txEn = false → exec .cmdTxstart s = .next s)

/-- CONSUME sets MSG_VALUE to 0 and keeps the other message registers (R208). -/
def Obligations.ConsumeClearsValueOnly : Prop :=
  (CommandAt 4 fun _ => .cmdConsume) ∧
  ∀ s : State, exec .cmdConsume s = .next { s with msg := { s.msg with value := 0 } }

/-! ## Whole-machine rules about the host -/

/-- No transaction can fail: every one completes in every state (R360). -/
def Obligations.EveryTransactionCompletes : Prop :=
  ∀ (i : Instr) (s : State), ∃ t, exec i s = .next t

/-- A transaction writes only what the host owns: never the receive engine, the parameters, MSG_BITLEN,
MSG_PROTO or MSG_DELAY; MSG_VALUE only by CONSUME; the transmit engine only by TXSTART while it is idle
(R68). -/
def Obligations.HostWritesOnlyWhatItOwns : Prop :=
  ∀ (i : Instr) (s t : State), exec i s = .next t →
    t.rx = s.rx ∧ t.par = s.par ∧ t.inputs = s.inputs ∧ t.msg.bitlen = s.msg.bitlen ∧
    t.msg.proto = s.msg.proto ∧ t.msg.delay = s.msg.delay ∧
    (t.msg.value ≠ s.msg.value → i = .cmdConsume) ∧
    (t.tx ≠ s.tx → i = .cmdTxstart ∧ s.tx.state = .idle)

/-- Outside reset, the engines leave the host's configuration alone: a cycle with no write strobe keeps it, and
a cycle with one leaves in it what the transaction written puts there (R68, R92). -/
def Obligations.EnginesLeaveConfigurationAlone : Prop :=
  ∀ s t : State, step s = .next t → (nextCycle s).rst = false →
    ((nextCycle s).busWe = false → SameConfiguration s t) ∧
    ((nextCycle s).busWe = true →
      ∃ u, exec (decode (cycleWriteWord (nextCycle s))) s = .next u ∧ SameConfiguration u t)

/-- SEL_CLAMPED is changed by SELPROTO, INIT and reset only (R204). -/
def Obligations.SelClampedChangesOnlyBySelection : Prop :=
  ∀ s t : State, step s = .next t → (nextCycle s).rst = false → NoSelection (nextCycle s) →
    t.selClamped = s.selClamped

/-- The message registers are written by a publish, MSG_VALUE also by CONSUME, and by reset: in a cycle
without reset in which no edge step is due, for none is pending or the pending one waits (log 7), the
message is what the host's part leaves: MSG_VALUE is 0 if the cycle writes CMD CONSUME, and everything else
is as before (R54 to R57, R92). -/
def Obligations.MessageChangesOnlyByPublishOrConsume : Prop :=
  ∀ s t : State, step s = .next t → (nextCycle s).rst = false →
    (s.rx.pend = true → (nextCycle s).edgeGo = false ∧ 0 < s.rx.guard) →
    t.msg = hostMessage (nextCycle s) s.msg ∧
    t.msg.bitlen = s.msg.bitlen ∧ t.msg.proto = s.msg.proto ∧ t.msg.delay = s.msg.delay ∧
    (t.msg.value ≠ s.msg.value →
      (nextCycle s).busWe = true ∧ decode (cycleWriteWord (nextCycle s)) = .cmdConsume ∧ t.msg.value = 0)

/-- The parameters, the protocol ROM among them, never change (R67, R74). -/
def Obligations.ParametersNeverChange : Prop :=
  ∀ s t : State, step s = .next t → t.par = s.par

/-! ## Cycles -/

/-- A step runs the transactions on the bus: in a cycle without reset, of an admitted block, with no transition
too close to the last, the word of the read strobe and then that of the write strobe are decoded and
executed, then the engines act (R33, R92, R116); and the cycle `withFetchWord` places runs its word. The
model's choice of one step per cycle is log 1. -/
def Obligations.StepRunsDecodedTransaction : Prop :=
  ∀ s u : State, paramsWf s.par = true → tooClose (beginCycle s) = false →
    ((nextCycle s).rst = false → (nextCycle s).busRe = true → (nextCycle s).busWe = false →
      exec (decode (cycleReadWord (nextCycle s))) (beginCycle s) = .next u →
      step s = .next (enginePhase (nextCycle s) (beginCycle s) u)) ∧
    ((nextCycle s).rst = false → (nextCycle s).busRe = false → (nextCycle s).busWe = true →
      exec (decode (cycleWriteWord (nextCycle s))) (beginCycle s) = .next u →
      step s = .next (enginePhase (nextCycle s) (beginCycle s) u)) ∧
    (∀ r : State, (nextCycle s).rst = false → (nextCycle s).busRe = true → (nextCycle s).busWe = true →
      exec (decode (cycleReadWord (nextCycle s))) (beginCycle s) = .next r →
      exec (decode (cycleWriteWord (nextCycle s))) r = .next u →
      step s = .next (enginePhase (nextCycle s) (beginCycle s) u)) ∧
    ((nextCycle s).rst = false → (nextCycle s).busRe = false → (nextCycle s).busWe = false →
      step s = .next (enginePhase (nextCycle s) (beginCycle s) (beginCycle s))) ∧
    ∀ (w : Nat) (i : Instr), decodeTableWord 40 w = some i → exec i (beginCycle s) = .next u →
      step (s.withFetchWord 40 w) =
        .next (enginePhase (nextCycle (s.withFetchWord 40 w)) (beginCycle s) u)

/-- A read returns the register as it stands at the start of its cycle, whatever else happens in that cycle
(R34, R33). -/
def Obligations.ReadReturnsStartOfCycleValue : Prop :=
  ∀ s t : State, step s = .next t → (nextCycle s).rst = false → (nextCycle s).busRe = true →
    t.busRdata = some (registerWord (nextCycle s).busAddr s)

/-- When a step gives a next state: always, but for a malformed table, which a model refuses (R11), for a
synchroniser of no flops, which this model refuses (log 5, DEDUCED), and for a transition accepted closer
than `MIN_EDGE_SPACING`, which a model does not admit (R287). How the model measures the spacing is log 8,
what a spacing of 0 means log 23, that only accepted transitions count log 24. -/
def Obligations.StepCompletesUnlessInputsAreRefused : Prop :=
  ∀ s : State,
    (tableWf s.par.table = false → step s = .refused .malformedParams) ∧
    (s.par.syncStages = 0 → step s = .refused .malformedParams) ∧
    (tableWf s.par.table = true → 1 ≤ s.par.syncStages → (nextCycle s).rst = false → tooClose s = true →
      step s = .refused .edgeSpacing) ∧
    (tableWf s.par.table = true → 1 ≤ s.par.syncStages → (nextCycle s).rst = true ∨ tooClose s = false →
      ∃ t, step s = .next t)

/-- A table is well formed exactly when 1 ≤ `N_PROTO` ≤ 255, every base is in 1..65535 and every factor in
1..255, and a block whose table is not is refused (R11). -/
def Obligations.MalformedTableIsRefused : Prop :=
  (∀ t : ProtoTable, tableWf t = true ↔
    1 ≤ nProto t ∧ nProto t ≤ 255 ∧ ∀ p ∈ t.first :: t.rest,
      (1 ≤ p.base.toNat ∧ p.base.toNat ≤ 65535) ∧
      ∀ f ∈ [p.sync.high, p.sync.low, p.zero.high, p.zero.low, p.one.high, p.one.low],
        1 ≤ f.toNat ∧ f.toNat ≤ 255) ∧
  ∀ s : State, tableWf s.par.table = false → step s = .refused .malformedParams

/-! ## Reset -/

/-- After reset every element R69 gives a value holds it, and the outputs follow (R69, R401). -/
def Obligations.ResetGivesTheSpecifiedValues : Prop :=
  ∀ p : Params, HasResetValues p (State.resetWith p) ∧ txOut (State.resetWith p) = false ∧
    txOe (State.resetWith p) = false ∧ txLinePort (State.resetWith p) = 0 ∧
    rxLinePort (State.resetWith p) = 0

/-- In a cycle with `rst` high every state element takes its reset value and nothing else takes effect, a
transmission and a pending transition included (R31, R400). -/
def Obligations.ResetCycleOverridesEverything : Prop :=
  ∀ s : State, paramsWf s.par = true → (nextCycle s).rst = true →
    ∃ t, step s = .next t ∧ HasResetValues s.par t ∧ t.inputs = s.inputs.tail ∧ t.busRdata = none

/-- The invariant holds after reset (R69, R70). -/
def Obligations.InvariantHoldsAfterReset : Prop :=
  ∀ p : Params, paramsWf p = true → (State.resetWith p).Inv

/-- Every step keeps the invariant: the bounds of R70, the frame rule of R71, the running segment of R238, the
ranges of a published message of R331 and R335, and the spacing bound. -/
def Obligations.StepKeepsInvariant : Prop :=
  ∀ s t : State, s.Inv → step s = .next t → t.Inv

/-! ## Transmit engine -/

/-- The worked example of R246. -/
def Obligations.WaveformOfWorkedExample : Prop :=
  let l : TxLatch := ⟨350, ⟨1, 31⟩, ⟨1, 3⟩, ⟨3, 1⟩, false, 2, 2, 1⟩
  txWave l = [(true, 1050), (false, 350), (true, 350), (false, 1050), (true, 350), (false, 10850)] ∧
    finalLevel false l = false ∧ ((txWave l).map Prod.snd).sum = 14000

/-- What is sent, segment by segment: in frame `r` the pair at data position `i`, counted from the most
significant, is the active and the inactive part of the shape of bit `i` (of the zero shape for positions
32 to 62), and the last pair is the sync shape (R231, R232, R234, R235); the number of segments (R235), the
length of a transmission (R245), and the bound that fits every segment in the 24-bit timer (R232). -/
def Obligations.WaveformCountAndDuration : Prop :=
  ∀ l : TxLatch,
    (∀ r i : Nat, r < l.rep.toNat → i < l.len.toNat →
      (txSegments l)[r * (2 * l.len.toNat + 2) + 2 * (l.len.toNat - 1 - i)]? =
        some (!l.inv, l.base.toNat * (sentShape l i).high.toNat) ∧
      (txSegments l)[r * (2 * l.len.toNat + 2) + 2 * (l.len.toNat - 1 - i) + 1]? =
        some (l.inv, l.base.toNat * (sentShape l i).low.toNat)) ∧
    (∀ r : Nat, r < l.rep.toNat →
      (txSegments l)[r * (2 * l.len.toNat + 2) + 2 * l.len.toNat]? =
        some (!l.inv, l.base.toNat * l.sync.high.toNat) ∧
      (txSegments l)[r * (2 * l.len.toNat + 2) + 2 * l.len.toNat + 1]? =
        some (l.inv, l.base.toNat * l.sync.low.toNat)) ∧
    (txSegments l).length = l.rep.toNat * (2 * l.len.toNat + 2) ∧
    ((txWave l).map Prod.snd).sum =
      l.rep.toNat * l.base.toNat *
        (((List.range l.len.toNat).map fun i =>
            (sentShape l i).high.toNat + (sentShape l i).low.toNat).sum +
          l.sync.high.toNat + l.sync.low.toNat) ∧
    ∀ seg ∈ txSegments l, seg.2 ≤ 16711425

/-- The positions `first(L)` and `next` visit are the segments of `txWave(L)`, in order, and there is none
after them, however much longer the walk may be (R236, R239, R240). -/
def Obligations.PositionsWalkTheWaveform : Prop :=
  ∀ (l : TxLatch) (n : Nat), positionCount l ≤ n → walk l n (firstPos l) = txWave l

/-- The armed engine emits the waveform: `k` ticks after the tick that begins it the line has the waveform's
level at `k`, and once it has ended (at once, if it is empty) the engine is idle at `FINAL` (R236, R237,
R239, R241, R244). -/
def Obligations.EngineEmitsTheWaveform : Prop :=
  ∀ (follows : Bool) (e : TxEngine), e.state = .armed → ∀ k : Nat,
    match levelAt (txWave e.latch) k with
    | some v => (tickTimes follows (k + 1) e).state = .run ∧ (tickTimes follows (k + 1) e).level = v
    | none => (tickTimes follows (k + 1) e).state = .idle ∧
        (tickTimes follows (k + 1) e).level = (if follows then e.latch.inv else false)

/-- Nothing but reset stops or changes a running transmission: whatever is on the bus, TXSTART, INIT and CTRL
writes included, the engine takes its tick step in a cycle with a tick and nothing else happens to it
(R243, R206, R233). -/
def Obligations.NothingStopsATransmission : Prop :=
  ∀ s t : State, step s = .next t → (nextCycle s).rst = false → s.tx.state ≠ .idle →
    t.tx = (if (nextCycle s).usTick then tickEngine s.par.txFinalFollowsInvert s.tx else s.tx)

/-- An accepted TXSTART is seen by the transmit engine from the next cycle on, a tick in its own cycle
notwithstanding; in every other cycle without reset an idle engine stays as it is, whatever is written,
TXSTART with TX_EN = 0 included (R92, R205, R207, R239). -/
def Obligations.TxstartIsSeenFromTheNextCycle : Prop :=
  ∀ s t : State, step s = .next t → (nextCycle s).rst = false → s.tx.state = .idle →
    ((nextCycle s).busWe = true → decode (cycleWriteWord (nextCycle s)) = .cmdTxstart →
      s.ctrl.txEn = true → t.tx = armEngine (latchOf s) s.tx) ∧
    (¬ ((nextCycle s).busWe = true ∧ decode (cycleWriteWord (nextCycle s)) = .cmdTxstart ∧
      s.ctrl.txEn = true) → t.tx = s.tx)

/-- The transmit outputs: `tx_out` is the engine's level, `tx_oe` is TX_EN or TX_BUSY, `tx_line` is TX_LINE; a
CTRL write while busy cannot clear `tx_oe` (R35, R36, R37, R39, R242). -/
def Obligations.OutputPortsFollowState : Prop :=
  (∀ s : State, txOut s = s.tx.level ∧ (txOe s = true ↔ s.ctrl.txEn = true ∨ s.tx.state ≠ .idle) ∧
    txLinePort s = s.ctrl.txLine ∧ rxLinePort s = s.ctrl.rxLine) ∧
  ∀ (d : Word) (s : State), s.tx.state ≠ .idle →
    ∃ t, exec (.wrCtrl d) s = .next t ∧ txOe t = true ∧ txLinePort t = d.extractLsb' 8 8

/-! ## Receive front end -/

/-- The front end in every cycle: the chain shifts `rx_in` in, `rx_prev` follows the synchronised sample, and
an accepted transition restarts the saturating count and sets the latch with the duration (R280, R281,
R283, R285). -/
def Obligations.FrontEndFollowsTheLine : Prop :=
  ∀ s t : State, step s = .next t → (nextCycle s).rst = false →
    let rxS := s.rx.sync.getLastD false
    let now := min (s.rx.since.toNat + (if (nextCycle s).usTick then 1 else 0)) (2 ^ 32 - 1)
    t.rx.sync = ((nextCycle s).rxIn :: s.rx.sync).dropLast ∧ t.rx.prev = rxS ∧
    (rxS ≠ s.rx.prev ∧ s.ctrl.rxEn = true →
      t.rx.since = 0 ∧ t.rx.pend = true ∧ t.rx.pendDur.toNat = now) ∧
    (¬ (rxS ≠ s.rx.prev ∧ s.ctrl.rxEn = true) →
      t.rx.since.toNat = now ∧ (s.rx.pend = false → t.rx.pend = false))

/-- A transition in a cycle with RX_EN = 0 is discarded: it causes no edge step and does not restart the
count; and a CTRL write touches no capture state and no message (R282). -/
def Obligations.DisabledTransitionIsDiscarded : Prop :=
  (∀ s t : State, step s = .next t → (nextCycle s).rst = false → s.ctrl.rxEn = false →
    s.rx.pend = false →
    t.rx.pend = false ∧ t.rx.buffer = s.rx.buffer ∧ t.rx.changeCount = s.rx.changeCount ∧
    t.rx.repeatConfirmCount = s.rx.repeatConfirmCount ∧ s.rx.since.toNat ≤ t.rx.since.toNat) ∧
  ∀ (d : Word) (s : State), ∃ t, exec (.wrCtrl d) s = .next t ∧ t.rx = s.rx ∧ t.msg = s.msg

/-- A latched transition runs its edge step, with its duration and the tolerance as it stood at the start of the
cycle, whether or not receive is still enabled and whatever the host writes; the message is what that step
makes of the message the host's part left, cleared by a CONSUME of the same cycle or not. Until it is due
the capture state and the latch stay, and the message is what the host's part leaves (R92, R285, R286). When
it is due inside the `MIN_EDGE_SPACING` window is the model's input (log 7), a spacing of 0 acts as 1 (log
23), and the start-of-cycle tolerance is DEDUCED (log 9). -/
def Obligations.PendingTransitionRunsItsEdgeStep : Prop :=
  ∀ s t : State, step s = .next t → (nextCycle s).rst = false → s.rx.pend = true →
    (((nextCycle s).edgeGo = true ∨ s.rx.guard = 0) →
      let e := edgeStep s.rxTol s.rx.pendDur { s with msg := hostMessage (nextCycle s) s.msg }
      t.rx.buffer = e.rx.buffer ∧ t.rx.changeCount = e.rx.changeCount ∧
      t.rx.repeatConfirmCount = e.rx.repeatConfirmCount ∧
      (t.rx.pend = true → accepted s = true) ∧ t.msg = e.msg) ∧
    ((nextCycle s).edgeGo = false → 0 < s.rx.guard →
      t.rx.buffer = s.rx.buffer ∧ t.rx.changeCount = s.rx.changeCount ∧
      t.rx.repeatConfirmCount = s.rx.repeatConfirmCount ∧ t.rx.pend = true ∧
      t.rx.pendDur = s.rx.pendDur ∧ t.msg = hostMessage (nextCycle s) s.msg)

/-- A CONSUME in the cycle of a publish loses: the published message stays (R92, R96). -/
def Obligations.PublishBeatsConsumeInOneCycle : Prop :=
  ∀ (s t : State) (m : Message), step s = .next t → (nextCycle s).rst = false →
    (nextCycle s).busWe = true → decode (cycleWriteWord (nextCycle s)) = .cmdConsume →
    s.rx.pend = true → (nextCycle s).edgeGo = true ∨ s.rx.guard = 0 →
    4300 < s.rx.pendDur.toNat → s.rx.repeatConfirmCount = 1 →
    GapsMatch s.par s.rx.pendDur (capRead s.rx.buffer 0) →
    tryAll s.par s.rxTol.toNat s.rx.buffer s.rx.changeCount = some m → t.msg = m

/-! ## Edge step -/

/-- A duration that is no gap is stored at `buffer[changeCount]`, which is incremented, while the buffer is
not full; the message, `repeatConfirmCount` and every other entry stay (R289, R294). -/
def Obligations.ShortDurationIsStored : Prop :=
  ∀ (pct : BitVec 8) (d : Word) (s : State), d.toNat ≤ 4300 → s.rx.changeCount < 67 →
    let t := edgeStep pct d s
    OnlyCapture s t ∧ t.msg = s.msg ∧ t.rx.repeatConfirmCount = s.rx.repeatConfirmCount ∧
    t.rx.changeCount = s.rx.changeCount + 1 ∧ StoredAt s.rx.changeCount d s.rx t.rx

/-- A gap: the first one sets `repeatConfirmCount` to 1; one that does not match `buffer[0]` leaves it at 1;
one that matches runs the trials over the frame just ended, publishes their success and sets it to 0. Each
begins a new frame with the gap at `buffer[0]` (R289 to R292). -/
def Obligations.GapStartsFrameAndMayRunTrials : Prop :=
  ∀ (pct : BitVec 8) (d : Word) (s : State), 4300 < d.toNat →
    let t := edgeStep pct d s
    (OnlyCapture s t ∧ t.rx.changeCount = 1 ∧ StoredAt 0 d s.rx t.rx) ∧
    (s.rx.repeatConfirmCount = 0 → t.rx.repeatConfirmCount = 1 ∧ t.msg = s.msg) ∧
    (s.rx.repeatConfirmCount = 1 → ¬ GapsMatch s.par d (capRead s.rx.buffer 0) →
      t.rx.repeatConfirmCount = 1 ∧ t.msg = s.msg) ∧
    (s.rx.repeatConfirmCount = 1 → GapsMatch s.par d (capRead s.rx.buffer 0) →
      t.rx.repeatConfirmCount = 0 ∧
      t.msg = (tryAll s.par pct.toNat s.rx.buffer s.rx.changeCount).getD s.msg)

/-- A duration that is no gap, with the buffer full, drops the frame: both counters reset, no trial, and the
duration is the first entry of a new frame (R293). -/
def Obligations.OverflowDropsTheFrame : Prop :=
  ∀ (pct : BitVec 8) (d : Word) (s : State), d.toNat ≤ 4300 → 67 ≤ s.rx.changeCount →
    let t := edgeStep pct d s
    OnlyCapture s t ∧ t.msg = s.msg ∧ t.rx.repeatConfirmCount = 0 ∧ t.rx.changeCount = 1 ∧
    StoredAt 0 d s.rx t.rx

/-- Durations that are no gaps never publish, however many there are, and leave `changeCount` in range
(R298 overflow safety, R70). -/
def Obligations.NoGapNeverPublishes : Prop :=
  ∀ (pct : BitVec 8) (ds : List Word) (s : State), (∀ d ∈ ds, d.toNat ≤ 4300) →
    s.rx.changeCount ≤ 67 →
    (edgeSteps pct ds s).msg = s.msg ∧ (edgeSteps pct ds s).rx.changeCount ≤ 67

/-- Exactly two consecutive gaps within the window run exactly one decode attempt, over the edges between
them: from `repeatConfirmCount` = 0, a gap, at most 66 durations that are no gaps, and a matching gap
publish what the trials find in the first gap and those durations (R298, R296, R291). -/
def Obligations.TwoMatchingGapsDecodeTheFrameBetween : Prop :=
  ∀ (pct : BitVec 8) (g d : Word) (xs : List Word) (s : State),
    s.rx.repeatConfirmCount = 0 → 4300 < g.toNat → 4300 < d.toNat → GapsMatch s.par d g →
    (∀ x ∈ xs, x.toNat ≤ 4300) → xs.length ≤ 66 →
    (edgeSteps pct (g :: xs) s).msg = s.msg ∧
    ∃ buf : Vector Word Config.cap, buf.toList.take (xs.length + 1) = g :: xs ∧
      (edgeSteps pct (g :: (xs ++ [d])) s).msg =
        (tryAll s.par pct.toNat buf (xs.length + 1)).getD s.msg ∧
      (edgeSteps pct (g :: (xs ++ [d])) s).rx.repeatConfirmCount = 0

/-! ## Decoder -/

/-- With 7 edges or fewer every trial is TooShort and nothing is published (R328). -/
def Obligations.ShortFramePublishesNothing : Prop :=
  ∀ (par : Params) (pct n : Nat) (buf : Vector Word Config.cap), n ≤ 7 →
    (∀ p, trial par.matchInclusive pct p buf n = .tooShort) ∧ tryAll par pct buf n = none

/-- When a trial succeeds and with what: more than 7 edges, every pair from `dataStart` on decodes, the zero
shape first, and the accumulator is their bits, the earliest the most significant; `baseUnit` is the gap
over the larger sync factor and the tolerance a percent of it (R322 to R327, R329, R330). -/
def Obligations.TrialSucceedsExactlyWhenEveryPairMatches : Prop :=
  ∀ (inclusive : Bool) (pct n : Nat) (p : Protocol) (buf : Vector Word Config.cap) (acc : Word) (unit : Nat),
    n ≤ 67 →
    (trial inclusive pct p buf n = .success acc unit ↔
      7 < n ∧ unit = (capRead buf 0).toNat / max p.sync.high.toNat p.sync.low.toNat ∧
      ∃ bits : List Bool, bits.length = (n - (if p.inverted then 2 else 1)) / 2 ∧
        (∀ k b, bits[k]? = some b →
          PairDecodes inclusive p unit (unit * pct / 100) buf ((if p.inverted then 2 else 1) + 2 * k) b) ∧
        acc = accumulate bits)

/-- The trials run in ROM order and the first success is published, with its ROM index (R320, R332). -/
def Obligations.FirstSuccessIsPublished : Prop :=
  ∀ (par : Params) (pct n : Nat) (buf : Vector Word Config.cap) (m : Message),
    tryAll par pct buf n = some m ↔
      ∃ k p acc unit, (par.table.first :: par.table.rest)[k]? = some p ∧
        trial par.matchInclusive pct p buf n = .success acc unit ∧
        (∀ j q, j < k → (par.table.first :: par.table.rest)[j]? = some q →
          ∀ a u, trial par.matchInclusive pct q buf n ≠ .success a u) ∧
        m = ⟨acc, BitVec.ofNat 6 ((n - 1) / 2), BitVec.ofNat 8 (k + 1), BitVec.ofNat 32 unit⟩

/-- A published bit length is `(n - 1) div 2`, between 3 and 33; the number of pairs examined is the same but
for an inverted protocol with odd `n`, where it is one less (R331). -/
def Obligations.PublishedLengthComesFromEdgeCount : Prop :=
  (∀ (par : Params) (pct n : Nat) (buf : Vector Word Config.cap) (m : Message), n ≤ 67 →
    tryAll par pct buf n = some m →
      m.bitlen.toNat = (n - 1) / 2 ∧ 3 ≤ m.bitlen.toNat ∧ m.bitlen.toNat ≤ 33) ∧
  ∀ (p : Protocol) (buf : Vector Word Config.cap) (n : Nat), 8 ≤ n → n ≤ 67 →
    (trialEntries p buf n).length / 2 =
      if p.inverted = true ∧ n % 2 = 1 then (n - 1) / 2 - 1 else (n - 1) / 2

/-- With a tolerance of 0 and the strict comparison nothing matches, exact multiples included (R335, first
corner case; 90_conflicts.md C6). -/
def Obligations.ZeroToleranceMatchesNothing : Prop :=
  ∀ (par : Params) (pct n : Nat) (buf : Vector Word Config.cap), par.matchInclusive = false →
    (∀ p ∈ par.table.first :: par.table.rest,
      (capRead buf 0).toNat / max p.sync.high.toNat p.sync.low.toNat * pct / 100 = 0) →
    n ≤ 67 → tryAll par pct buf n = none

/-- What an edge step does does not depend on the active protocol or on any host register but RX_TOL: two
states of one block with the same receive engine and message agree on both after an edge step with the same
tolerance (R334). -/
def Obligations.ReceiverIgnoresActiveProtocol : Prop :=
  ∀ (pct : BitVec 8) (d : Word) (s s' : State), s.par = s'.par → s.rx = s'.rx → s.msg = s'.msg →
    (edgeStep pct d s).rx = (edgeStep pct d s').rx ∧ (edgeStep pct d s).msg = (edgeStep pct d s').msg

/-- The round trip of R338: a clean frame of the low `k` bits of `v`, 3 ≤ `k` ≤ 32, sent with the ROM's protocol
`p`, decodes to those bits and to `k`, when no lower-numbered protocol matches, the tolerance is at least
1, the gap carries the larger sync factor, and the one shape is not within tolerance of the zero shape. -/
def Obligations.CleanFrameRoundTrip : Prop :=
  ∀ (par : Params) (pct k id : Nat) (p : Protocol) (v : Word) (buf : Vector Word Config.cap),
    tableWf par.table = true → (par.table.first :: par.table.rest)[id]? = some p →
    (∀ j q, j < id → (par.table.first :: par.table.rest)[j]? = some q →
      ∀ a u, trial par.matchInclusive pct q buf (2 * k + 2) ≠ .success a u) →
    3 ≤ k → k ≤ 32 → buf.toList.take (2 * k + 2) = cleanFrame p v k →
    (if p.inverted then p.sync.low.toNat ≤ p.sync.high.toNat else p.sync.high.toNat ≤ p.sync.low.toNat) →
    1 ≤ p.base.toNat * pct / 100 → ShapesApart par.matchInclusive p (p.base.toNat * pct / 100) →
    tryAll par pct buf (2 * k + 2) =
      some ⟨BitVec.ofNat 32 (v.toNat % 2 ^ k), BitVec.ofNat 6 k, BitVec.ofNat 8 (id + 1),
        BitVec.ofNat 32 p.base.toNat⟩

/-! ## Host software -/

/-- The source's enable and disable operations, run with the value `c` that RD CTRL returned, change the enable
and the line identifier they name and nothing else (R130, R131, R136, R137). -/
def Obligations.EnableOperationsChangeOnlyTheirFields : Prop :=
  ∀ (s : State) (line : BitVec 8),
    execAll (opEnableTransmit (ctrlWord s.ctrl) line) s =
      .next { afterRead s (ctrlWord s.ctrl) with ctrl := { s.ctrl with txEn := true, txLine := line } } ∧
    execAll (opDisableTransmit (ctrlWord s.ctrl)) s =
      .next { afterRead s (ctrlWord s.ctrl) with ctrl := { s.ctrl with txEn := false } } ∧
    execAll (opEnableReceive (ctrlWord s.ctrl) line) s =
      .next { afterRead s (ctrlWord s.ctrl) with ctrl := { s.ctrl with rxEn := true, rxLine := line } } ∧
    execAll (opDisableReceive (ctrlWord s.ctrl)) s =
      .next { afterRead s (ctrlWord s.ctrl) with ctrl := { s.ctrl with rxEn := false } }

/-- Selecting a custom record replaces the active protocol wholesale once its five writes have taken effect
(R127). -/
def Obligations.CustomRecordReplacesActiveProtocol : Prop :=
  ∀ (p : Protocol) (s : State), execAll (opSelectCustom p) s = .next { s with ap := p }
end

