-- ==== Sys2Proof/Laws/Memory.lean ====
section
/-! SUPPORT. Laws/Memory.lean: the capture buffer's read-after-write laws (20_memory.md R82) and the protocol
ROM's lookup (R83). -/

namespace Sys2Proof.Machine

theorem capRead_lt (buf : Vector Word Config.cap) (i : Nat) (h : i < Config.cap) :
    capRead buf i = buf[i] := by
  simp [capRead, List.getD_eq_getElem?_getD, h]

theorem capWrite_toList (buf : Vector Word Config.cap) (i : Nat) (v : Word) :
    (capWrite buf i v).toList = buf.toList.set i v := by
  simp [capWrite]

/-- A read after a write to the same entry gives the value written. -/
theorem capRead_capWrite_same (buf : Vector Word Config.cap) (i : Nat) (v : Word) (h : i < Config.cap) :
    capRead (capWrite buf i v) i = v := by
  simp [capRead, capWrite_toList, List.getD_eq_getElem?_getD, h]

/-- A write leaves every other entry alone. -/
theorem capRead_capWrite_other (buf : Vector Word Config.cap) (i j : Nat) (v : Word) (h : i ≠ j) :
    capRead (capWrite buf i v) j = capRead buf j := by
  simp [capRead, capWrite_toList, List.getD_eq_getElem?_getD, List.getElem?_set_ne h]

@[simp] theorem romRead_one (t : ProtoTable) : romRead t 1 = t.first := rfl

/-- The lookup inside 1..`N_PROTO`. -/
theorem romRead_of_getElem? (t : ProtoTable) (p : Nat) (e : Protocol)
    (h : (romEntries t)[p - 1]? = some e) : romRead t p = e := by
  simp [romRead, List.getD_eq_getElem?_getD, h]

theorem nProto_pos (t : ProtoTable) : 1 ≤ nProto t := by
  simp [nProto, romEntries]

/-- `absdiff` is the distance of two naturals (00_scope.md section 5). -/
theorem absdiff_eq_natAbs (a b : Nat) : absdiff a b = ((a : Int) - b).natAbs := by
  unfold absdiff; omega

@[simp] theorem absdiff_self (a : Nat) : absdiff a a = 0 := by simp [absdiff]

theorem sat32_toNat (v : Nat) : (sat32 v).toNat = min v (2 ^ 32 - 1) := by
  simp only [sat32, BitVec.toNat_ofNat]
  exact Nat.mod_eq_of_lt (by omega)

end Sys2Proof.Machine
end

