-- ==== Sys2Proof/Laws/State.lean ====
section
/-! SUPPORT. Laws/State.lean: what each named update of the state leaves of each field. -/

namespace Sys2Proof.Machine

section publish
variable (m : Message) (s : State)
@[simp] theorem publish_par : (publish m s).par = s.par := rfl
@[simp] theorem publish_ctrl : (publish m s).ctrl = s.ctrl := rfl
@[simp] theorem publish_selClamped : (publish m s).selClamped = s.selClamped := rfl
@[simp] theorem publish_ap : (publish m s).ap = s.ap := rfl
@[simp] theorem publish_repeatCount : (publish m s).repeatCount = s.repeatCount := rfl
@[simp] theorem publish_txValue : (publish m s).txValue = s.txValue := rfl
@[simp] theorem publish_txLen : (publish m s).txLen = s.txLen := rfl
@[simp] theorem publish_rxTol : (publish m s).rxTol = s.rxTol := rfl
@[simp] theorem publish_msg : (publish m s).msg = m := rfl
@[simp] theorem publish_tx : (publish m s).tx = s.tx := rfl
@[simp] theorem publish_rx : (publish m s).rx = s.rx := rfl
@[simp] theorem publish_busRdata : (publish m s).busRdata = s.busRdata := rfl
@[simp] theorem publish_inputs : (publish m s).inputs = s.inputs := rfl
end publish

section beginCycle
variable (s : State)
@[simp] theorem beginCycle_par : (beginCycle s).par = s.par := rfl
@[simp] theorem beginCycle_ctrl : (beginCycle s).ctrl = s.ctrl := rfl
@[simp] theorem beginCycle_selClamped : (beginCycle s).selClamped = s.selClamped := rfl
@[simp] theorem beginCycle_ap : (beginCycle s).ap = s.ap := rfl
@[simp] theorem beginCycle_repeatCount : (beginCycle s).repeatCount = s.repeatCount := rfl
@[simp] theorem beginCycle_txValue : (beginCycle s).txValue = s.txValue := rfl
@[simp] theorem beginCycle_txLen : (beginCycle s).txLen = s.txLen := rfl
@[simp] theorem beginCycle_rxTol : (beginCycle s).rxTol = s.rxTol := rfl
@[simp] theorem beginCycle_msg : (beginCycle s).msg = s.msg := rfl
@[simp] theorem beginCycle_tx : (beginCycle s).tx = s.tx := rfl
@[simp] theorem beginCycle_rx : (beginCycle s).rx = s.rx := rfl
@[simp] theorem beginCycle_busRdata : (beginCycle s).busRdata = none := rfl
@[simp] theorem beginCycle_inputs : (beginCycle s).inputs = s.inputs.tail := rfl
end beginCycle

section applyReset
variable (s : State)
@[simp] theorem applyReset_par : (applyReset s).par = s.par := rfl
@[simp] theorem applyReset_inputs : (applyReset s).inputs = s.inputs := rfl
@[simp] theorem applyReset_tx : (applyReset s).tx = TxEngine.reset := rfl
@[simp] theorem applyReset_rx : (applyReset s).rx = RxEngine.reset s.par := rfl
@[simp] theorem applyReset_msg : (applyReset s).msg = ⟨0, 0, 0, 0⟩ := rfl
end applyReset

section storeStep
variable (d : Word) (s : State)
@[simp] theorem storeStep_par : (storeStep d s).par = s.par := rfl
@[simp] theorem storeStep_msg : (storeStep d s).msg = s.msg := rfl
@[simp] theorem storeStep_changeCount : (storeStep d s).rx.changeCount = s.rx.changeCount + 1 := rfl
@[simp] theorem storeStep_confirm :
    (storeStep d s).rx.repeatConfirmCount = s.rx.repeatConfirmCount := rfl
@[simp] theorem storeStep_buffer :
    (storeStep d s).rx.buffer = capWrite s.rx.buffer s.rx.changeCount d := rfl
end storeStep

/-- What `publishFound` leaves: everything but the message. -/
theorem publishFound_eq (m : Option Message) (s : State) :
    publishFound m s = { s with msg := m.getD s.msg } := by
  cases m <;> rfl

@[simp] theorem armEngine_state (l : TxLatch) (e : TxEngine) : (armEngine l e).state = .armed := rfl
@[simp] theorem armEngine_latch (l : TxLatch) (e : TxEngine) : (armEngine l e).latch = l := rfl
@[simp] theorem armEngine_level (l : TxLatch) (e : TxEngine) : (armEngine l e).level = e.level := rfl

end Sys2Proof.Machine
end

