-- ==== Sys2Proof/Laws/Capture.lean ====
section
/-! SUPPORT. Laws/Capture.lean: what an edge step and the front end can do, said once (43_edge_capture.md). The
provers cite `edgeStep_cases` instead of unfolding the three steps. -/

namespace Sys2Proof.Machine

theorem isGap_iff (d : Word) : isGap d = true ↔ 4300 < d.toNat := by simp [isGap]

theorem isGap_eq_false (d : Word) : isGap d = false ↔ d.toNat ≤ 4300 := by simp [isGap]

/-- All that an edge step can do (R288): store in the current frame; drop a full frame; begin a new frame at a
gap that does not count, that runs the trials, or that is the first. -/
theorem edgeStep_cases (pct : BitVec 8) (d : Word) (s : State) :
    (isGap d = false ∧ s.rx.changeCount < 67 ∧
      edgeStep pct d s = { s with rx := { s.rx with
        buffer := capWrite s.rx.buffer s.rx.changeCount d, changeCount := s.rx.changeCount + 1 } }) ∨
    (isGap d = false ∧ 67 ≤ s.rx.changeCount ∧
      edgeStep pct d s = { s with rx := { s.rx with
        buffer := capWrite s.rx.buffer 0 d, changeCount := 1, repeatConfirmCount := 0 } }) ∨
    (isGap d = true ∧ gapCounts s.par d s.rx = false ∧
      edgeStep pct d s = { s with rx := { s.rx with
        buffer := capWrite s.rx.buffer 0 d, changeCount := 1 } }) ∨
    (isGap d = true ∧ gapCounts s.par d s.rx = true ∧ s.rx.repeatConfirmCount = 1 ∧
      edgeStep pct d s = { s with
        msg := (tryAll s.par pct.toNat s.rx.buffer s.rx.changeCount).getD s.msg,
        rx := { s.rx with
          buffer := capWrite s.rx.buffer 0 d, changeCount := 1, repeatConfirmCount := 0 } }) ∨
    (isGap d = true ∧ gapCounts s.par d s.rx = true ∧ s.rx.repeatConfirmCount ≠ 1 ∧
      edgeStep pct d s = { s with rx := { s.rx with
        buffer := capWrite s.rx.buffer 0 d, changeCount := 1,
        repeatConfirmCount := s.rx.repeatConfirmCount + 1 } }) := by
  by_cases hg : isGap d = true
  · by_cases hc : gapCounts s.par d s.rx = true
    · by_cases h1 : s.rx.repeatConfirmCount = 1
      · refine .inr (.inr (.inr (.inl ⟨hg, hc, h1, ?_⟩)))
        simp [edgeStep, gapStep, countGap, overflowStep, storeStep, hg, hc, h1, publishFound_eq]
      · refine .inr (.inr (.inr (.inr ⟨hg, hc, h1, ?_⟩)))
        simp [edgeStep, gapStep, countGap, overflowStep, storeStep, hg, hc, h1]
    · refine .inr (.inr (.inl ⟨hg, by simpa using hc, ?_⟩))
      simp [edgeStep, gapStep, overflowStep, storeStep, hg, hc]
  · by_cases hf : s.rx.changeCount < 67
    · refine .inl ⟨by simpa using hg, hf, ?_⟩
      simp [edgeStep, gapStep, overflowStep, storeStep, hg, Nat.not_le.2 hf]
    · refine .inr (.inl ⟨by simpa using hg, Nat.not_lt.1 hf, ?_⟩)
      simp [edgeStep, gapStep, overflowStep, storeStep, hg, Nat.not_lt.1 hf]

/-- When a gap counts, in distances (R290). -/
theorem gapCounts_iff (par : Params) (d : Word) (r : RxEngine) :
    gapCounts par d r = true ↔ r.repeatConfirmCount = 0 ∨
      (if par.gapMatchInclusive then absdiff d.toNat (capRead r.buffer 0).toNat ≤ 200
       else absdiff d.toNat (capRead r.buffer 0).toNat < 200) := by
  simp only [gapCounts, gapMatch]
  cases par.gapMatchInclusive <;> simp

@[simp] theorem edgeStep_pend (pct : BitVec 8) (d : Word) (s : State) :
    (edgeStep pct d s).rx.pend = s.rx.pend := by
  obtain ⟨_, _, h⟩ | ⟨_, _, h⟩ | ⟨_, _, h⟩ | ⟨_, _, _, h⟩ | ⟨_, _, _, h⟩ := edgeStep_cases pct d s <;>
    rw [h]

@[simp] theorem edgeStep_pendDur (pct : BitVec 8) (d : Word) (s : State) :
    (edgeStep pct d s).rx.pendDur = s.rx.pendDur := by
  obtain ⟨_, _, h⟩ | ⟨_, _, h⟩ | ⟨_, _, h⟩ | ⟨_, _, _, h⟩ | ⟨_, _, _, h⟩ := edgeStep_cases pct d s <;>
    rw [h]

@[simp] theorem edgeStep_par (pct : BitVec 8) (d : Word) (s : State) :
    (edgeStep pct d s).par = s.par := by
  obtain ⟨_, _, h⟩ | ⟨_, _, h⟩ | ⟨_, _, h⟩ | ⟨_, _, _, h⟩ | ⟨_, _, _, h⟩ := edgeStep_cases pct d s <;>
    rw [h]

theorem edgeSteps_append (pct : BitVec 8) (xs ys : List Word) (s : State) :
    edgeSteps pct (xs ++ ys) s = edgeSteps pct ys (edgeSteps pct xs s) := by
  induction xs generalizing s with
  | nil => rfl
  | cons x xs ih => simp only [List.cons_append, edgeSteps, ih]

/-- Whatever it did, an edge step stored a duration (R70, R294). -/
theorem edgeStep_changeCount_pos (pct : BitVec 8) (d : Word) (s : State) :
    1 ≤ (edgeStep pct d s).rx.changeCount := by
  simp [edgeStep]

@[simp] theorem shiftSync_length (b : Bool) (sync : List Bool) :
    (shiftSync b sync).length = sync.length := by
  simp [shiftSync]

section frontEnd
variable (spacing : Nat) (usTick rxIn acc : Bool) (start r : RxEngine)
@[simp] theorem frontEnd_sync :
    (frontEnd spacing usTick rxIn acc start r).sync = shiftSync rxIn start.sync := by
  cases acc <;> rfl
@[simp] theorem frontEnd_prev :
    (frontEnd spacing usTick rxIn acc start r).prev = syncSample start := by cases acc <;> rfl
@[simp] theorem frontEnd_buffer :
    (frontEnd spacing usTick rxIn acc start r).buffer = r.buffer := by cases acc <;> rfl
@[simp] theorem frontEnd_changeCount :
    (frontEnd spacing usTick rxIn acc start r).changeCount = r.changeCount := by cases acc <;> rfl
@[simp] theorem frontEnd_confirm :
    (frontEnd spacing usTick rxIn acc start r).repeatConfirmCount = r.repeatConfirmCount := by
  cases acc <;> rfl
@[simp] theorem frontEnd_pend :
    (frontEnd spacing usTick rxIn acc start r).pend = (acc || r.pend) := by cases acc <;> rfl
@[simp] theorem frontEnd_pendDur :
    (frontEnd spacing usTick rxIn acc start r).pendDur =
      if acc then sinceNow usTick start else r.pendDur := by cases acc <;> rfl
@[simp] theorem frontEnd_since :
    (frontEnd spacing usTick rxIn acc start r).since = if acc then 0 else sinceNow usTick start := by
  cases acc <;> rfl
@[simp] theorem frontEnd_guard :
    (frontEnd spacing usTick rxIn acc start r).guard =
      if acc then spacing - 1 else start.guard - 1 := by cases acc <;> rfl
end frontEnd

/-- When the pending edge step is done (R285; log 7). -/
theorem edgeDue_eq_true (go : Bool) (r : RxEngine) :
    edgeDue go r = true ↔ r.pend = true ∧ (go = true ∨ r.guard = 0) := by
  simp [edgeDue]

/-- When it is not. -/
theorem edgeDue_eq_false (go : Bool) (r : RxEngine) :
    edgeDue go r = false ↔ (r.pend = true → go = false ∧ 0 < r.guard) := by
  simp [edgeDue, Nat.pos_iff_ne_zero]

/-- When a transition is accepted (R281, R282). -/
theorem accepted_eq_true (s : State) :
    accepted s = true ↔ s.rx.sync.getLastD false ≠ s.rx.prev ∧ s.ctrl.rxEn = true := by
  simp [accepted, transition, syncSample]

/-- The count with this cycle's tick, saturating (R283). -/
theorem sinceNow_toNat (usTick : Bool) (r : RxEngine) :
    (sinceNow usTick r).toNat = min (r.since.toNat + (if usTick then 1 else 0)) (2 ^ 32 - 1) := by
  rw [sinceNow, sat32_toNat]
  cases usTick <;> rfl

end Sys2Proof.Machine
end

