-- ==== Sys2Proof/Laws/Decode.lean ====
section
/-! SUPPORT. Laws/Decode.lean: the fields of a transaction word (30_encoding.md R110, R113), read back from the
words `txnWord` and `cmdWord` build. -/

namespace Sys2Proof

@[simp] theorem txnW_txnWord (w : Bool) (a : BitVec 4) (d : Word) : txnW (txnWord w a d) = w := by
  simp only [txnW, txnWord, BitVec.getLsbD_append, BitVec.getLsbD_ofBool]
  simp

@[simp] theorem txnA_txnWord (w : Bool) (a : BitVec 4) (d : Word) : txnA (txnWord w a d) = a := by
  apply BitVec.eq_of_getLsbD_eq
  intro i hi
  have h : ¬ 32 + i < 32 := by omega
  simp only [txnA, txnWord, BitVec.getLsbD_extractLsb', BitVec.getLsbD_append, hi, h,
    decide_true, Bool.true_and, if_false, Nat.add_sub_cancel_left, if_true]

@[simp] theorem txnD_txnWord (w : Bool) (a : BitVec 4) (d : Word) : txnD (txnWord w a d) = d := by
  apply BitVec.eq_of_getLsbD_eq
  intro i hi
  simp only [txnD, txnWord, BitVec.getLsbD_extractLsb', BitVec.getLsbD_append, hi, Nat.zero_add,
    decide_true, Bool.true_and, if_true]

@[simp] theorem cmdOp_append (op : BitVec 8) (arg : BitVec 24) : cmdOp (op ++ arg) = op := by
  apply BitVec.eq_of_getLsbD_eq
  intro i hi
  have h : ¬ 24 + i < 24 := by omega
  simp only [cmdOp, BitVec.getLsbD_extractLsb', BitVec.getLsbD_append, hi, h, decide_true,
    Bool.true_and, if_false, Nat.add_sub_cancel_left]

@[simp] theorem cmdArg_append (op : BitVec 8) (arg : BitVec 24) : cmdArg (op ++ arg) = arg := by
  apply BitVec.eq_of_getLsbD_eq
  intro i hi
  simp only [cmdArg, BitVec.getLsbD_extractLsb', BitVec.getLsbD_append, hi, Nat.zero_add,
    decide_true, Bool.true_and, if_true]

/-- A transaction word is its three fields. -/
theorem txnWord_fields (t : TxnWord) : txnWord (txnW t) (txnA t) (txnD t) = t := by
  apply BitVec.eq_of_getLsbD_eq
  intro i hi
  simp only [txnWord, txnW, txnA, txnD, BitVec.getLsbD_append, BitVec.getLsbD_extractLsb', BitVec.getLsbD_ofBool]
  by_cases h1 : i < 32
  · simp [h1]
  · by_cases h2 : i < 36
    · have h3 : i - 32 < 4 := by omega
      have h4 : 32 + (i - 32) = i := by omega
      simp [h1, h3, h4]
    · have h3 : ¬ i - 32 < 4 := by omega
      have h4 : i = 36 := by omega
      simp [h4]

/-- A CMD datum is its two fields. -/
theorem cmd_fields (d : Word) : cmdOp d ++ cmdArg d = d := by
  apply BitVec.eq_of_getLsbD_eq
  intro i hi
  simp only [cmdOp, cmdArg, BitVec.getLsbD_append, BitVec.getLsbD_extractLsb']
  by_cases h1 : i < 24
  · simp [h1]
  · have h3 : i - 24 < 8 := by omega
    have h4 : 24 + (i - 24) = i := by omega
    simp [h1, h3, h4]

@[simp] theorem decode_txnWord_read (a : BitVec 4) (d : Word) :
    decode (txnWord false a d) = decodeRead a := by
  simp [decode]

@[simp] theorem decode_txnWord_write (a : BitVec 4) (d : Word) :
    decode (txnWord true a d) = decodeWrite a d := by
  simp [decode]

@[simp] theorem decode_cmdWord (op : BitVec 8) (arg : BitVec 24) :
    decode (cmdWord op arg) = decodeCmd (op ++ arg) := by
  simp only [cmdWord, decode_txnWord_write]
  rfl

/-- Every word address, one by one. -/
theorem address_cases (a : BitVec 4) :
    a = 0 ∨ a = 1 ∨ a = 2 ∨ a = 3 ∨ a = 4 ∨ a = 5 ∨ a = 6 ∨ a = 7 ∨ a = 8 ∨ a = 9 ∨ a = 10 ∨
      a = 11 ∨ a = 12 ∨ a = 13 ∨ a = 14 ∨ a = 15 := by
  revert a; decide

end Sys2Proof
end

