-- ==== Sys2Proof/Laws/Exec.lean ====
section
/-! SUPPORT. Laws/Exec.lean: what a host transaction can do, said once (40_host_registers.md, 41_commands.md):
the provers cite `exec_cases` instead of unfolding the meanings. -/

namespace Sys2Proof.Machine

/-- The host-owned configuration may be anything, everything else is as before. -/
def ConfigOnly (s t : State) : Prop :=
  t.par = s.par ∧ t.msg = s.msg ∧ t.tx = s.tx ∧ t.rx = s.rx ∧ t.busRdata = s.busRdata ∧
    t.inputs = s.inputs

/-- All that a transaction can do: a read drives `bus_rdata`; a write sets configuration; TXSTART arms an
idle, bound engine; CONSUME clears MSG_VALUE. -/
theorem exec_cases {i : Instr} {s t : State} (h : exec i s = .next t) :
    (i.isRead = true ∧ ∃ w, t = { s with busRdata := some w }) ∨
      (i.isRead = false ∧ ConfigOnly s t) ∨
      (i = .cmdTxstart ∧ s.tx.state = .idle ∧ s.ctrl.txEn = true ∧
        t = { s with tx := armEngine (latchOf s) s.tx }) ∨
      (i = .cmdConsume ∧ t = { s with msg := { s.msg with value := 0 } }) := by
  cases i with
  | cmdTxstart =>
    simp only [exec, execCmdTxstart, noEffect] at h
    split at h
    case isTrue =>
      cases h
      exact .inr (.inl ⟨rfl, rfl, rfl, rfl, rfl, rfl, rfl⟩)
    case isFalse h1 =>
      split at h
      case isTrue =>
        cases h
        exact .inr (.inl ⟨rfl, rfl, rfl, rfl, rfl, rfl, rfl⟩)
      case isFalse h2 =>
        cases h
        exact .inr (.inr (.inl ⟨rfl, by simpa using h1, by simpa using h2, rfl⟩))
  | cmdConsume =>
    simp only [exec, execCmdConsume, Host.Outcome.next.injEq] at h
    exact .inr (.inr (.inr ⟨rfl, h.symm⟩))
  | cmdSelproto arg =>
    simp only [exec, execCmdSelproto] at h
    split at h <;> (simp only [Host.Outcome.next.injEq] at h; subst h;
                    exact .inr (.inl ⟨rfl, rfl, rfl, rfl, rfl, rfl, rfl⟩))
  | _ =>
    first
    | (simp only [exec, execRdCtrl, execRdStatus, execRdCmd, execRdProtoBase, execRdProtoSync,
        execRdProtoZero, execRdProtoOne, execRdProtoFlags, execRdRepeat, execRdTxValue, execRdTxLen,
        execRdRxTol, execRdMsgValue, execRdMsgBitlen, execRdMsgProto, execRdMsgDelay, driveRead,
        Host.Outcome.next.injEq] at h
       exact .inl ⟨rfl, _, h.symm⟩)
    | (simp only [exec, execWrCtrl, execWrStatus, execCmdNop, execCmdInit, execCmdReserved,
        execWrProtoBase, execWrProtoSync, execWrProtoZero, execWrProtoOne, execWrProtoFlags,
        execWrRepeat, execWrTxValue, execWrTxLen, execWrRxTol, execWrMsgValue, execWrMsgBitlen,
        execWrMsgProto, execWrMsgDelay, noEffect, Host.Outcome.next.injEq] at h
       subst h
       exact .inr (.inl ⟨rfl, rfl, rfl, rfl, rfl, rfl, rfl⟩))

theorem exec_par {i : Instr} {s t : State} (h : exec i s = .next t) : t.par = s.par := by
  obtain ⟨_, w, rfl⟩ | ⟨_, hc⟩ | ⟨_, _, _, rfl⟩ | ⟨_, rfl⟩ := exec_cases h
  exacts [rfl, hc.1, rfl, rfl]

theorem exec_rx {i : Instr} {s t : State} (h : exec i s = .next t) : t.rx = s.rx := by
  obtain ⟨_, w, rfl⟩ | ⟨_, hc⟩ | ⟨_, _, _, rfl⟩ | ⟨_, rfl⟩ := exec_cases h
  exacts [rfl, hc.2.2.2.1, rfl, rfl]

theorem exec_inputs {i : Instr} {s t : State} (h : exec i s = .next t) : t.inputs = s.inputs := by
  obtain ⟨_, w, rfl⟩ | ⟨_, hc⟩ | ⟨_, _, _, rfl⟩ | ⟨_, rfl⟩ := exec_cases h
  exacts [rfl, hc.2.2.2.2.2, rfl, rfl]

/-- While a transmission runs, no transaction touches the transmit engine (R206, R243). -/
theorem exec_tx_busy {i : Instr} {s t : State} (h : exec i s = .next t) (hb : s.tx.state ≠ .idle) :
    t.tx = s.tx := by
  obtain ⟨_, w, rfl⟩ | ⟨_, hc⟩ | ⟨_, hi, _, rfl⟩ | ⟨_, rfl⟩ := exec_cases h
  exacts [rfl, hc.2.2.1, absurd hi hb, rfl]

/-- The read decoded from an address returns the word of the register there (R41, R150). -/
theorem exec_decodeRead (a : BitVec 4) (s : State) :
    exec (decodeRead a) s = .next { s with busRdata := some (registerWord a s) } := by
  obtain rfl | rfl | rfl | rfl | rfl | rfl | rfl | rfl | rfl | rfl | rfl | rfl | rfl | rfl | rfl | rfl :=
    address_cases a <;> rfl

end Sys2Proof.Machine
end

