-- ==== Sys2Proof/Laws/Cycle.lean ====
section
/-! SUPPORT. Laws/Cycle.lean: what one `clk` cycle can do, said once (20_memory.md R92). -/

namespace Sys2Proof.Machine

/-- Peeling a sequence of two steps apart. -/
theorem andThen_next {o : Host.Outcome State Fault Refusal}
    {f : State → Host.Outcome State Fault Refusal} {t : State} (h : andThen o f = .next t) :
    ∃ u, o = .next u ∧ f u = .next t := by
  cases o with
  | next u => exact ⟨u, rfl, h⟩
  | fault r => exact nomatch r
  | refused r => simp [andThen] at h

/-- When a transition comes too close to the last (R287; log 8). -/
theorem tooClose_eq_false (s : State) : tooClose s = false ↔ (accepted s = true → s.rx.guard = 0) := by
  simp [tooClose]

/-- A step that answers a next state is a cycle of an admitted block: a reset cycle, or the host's
transactions followed by the engines. -/
theorem step_cases {s t : State} (h : step s = .next t) :
    paramsWf s.par = true ∧
      (((nextCycle s).rst = true ∧ t = applyReset (beginCycle s)) ∨
        ((nextCycle s).rst = false ∧ tooClose (beginCycle s) = false ∧
          ∃ u, hostPhase (nextCycle s) (beginCycle s) = .next u ∧
            t = enginePhase (nextCycle s) (beginCycle s) u)) := by
  simp only [step, runCycle] at h
  split at h
  case isFalse => exact nomatch h
  case isTrue hw =>
    refine ⟨hw, ?_⟩
    simp only [clockCycle] at h
    split at h
    case isTrue hr => exact .inl ⟨hr, by simpa using h.symm⟩
    case isFalse hr =>
      split at h
      case isTrue => exact nomatch h
      case isFalse hc =>
        obtain ⟨u, hu, ht⟩ := andThen_next h
        exact .inr ⟨by simpa using hr, by simpa using hc, u, hu, by simpa using ht.symm⟩

/-- The read of a cycle: `bus_rdata` takes the addressed register's word, nothing else changes. -/
theorem hostRead_eq (c : CycleIn) (s : State) :
    hostRead c s =
      .next (if c.busRe then { s with busRdata := some (registerWord c.busAddr s) } else s) := by
  unfold hostRead
  split
  · simp only [cycleReadWord, decode_txnWord_read, exec_decodeRead]
  · rfl

/-- The host's part of a cycle: the read, then the transaction of the write strobe. -/
theorem hostPhase_cases {c : CycleIn} {s u : State} (h : hostPhase c s = .next u) :
    ∃ r, r = (if c.busRe then { s with busRdata := some (registerWord c.busAddr s) } else s) ∧
      ((c.busWe = false ∧ u = r) ∨
        (c.busWe = true ∧ exec (decodeWrite c.busAddr c.busWdata) r = .next u)) := by
  unfold hostPhase at h
  rw [hostRead_eq] at h
  refine ⟨_, rfl, ?_⟩
  simp only [andThen] at h
  unfold hostWrite at h
  split at h
  case isTrue hw =>
    simp only [cycleWriteWord, decode_txnWord_write] at h
    exact .inr ⟨hw, h⟩
  case isFalse hw => exact .inl ⟨by simpa using hw, by simpa using h.symm⟩

theorem hostPhase_par {c : CycleIn} {s u : State} (h : hostPhase c s = .next u) : u.par = s.par := by
  obtain ⟨r, rfl, ⟨_, rfl⟩ | ⟨_, he⟩⟩ := hostPhase_cases h
  · split <;> rfl
  · rw [exec_par he]; split <;> rfl

theorem hostPhase_rx {c : CycleIn} {s u : State} (h : hostPhase c s = .next u) : u.rx = s.rx := by
  obtain ⟨r, rfl, ⟨_, rfl⟩ | ⟨_, he⟩⟩ := hostPhase_cases h
  · split <;> rfl
  · rw [exec_rx he]; split <;> rfl

theorem hostPhase_tx_busy {c : CycleIn} {s u : State} (h : hostPhase c s = .next u)
    (hb : s.tx.state ≠ .idle) : u.tx = s.tx := by
  obtain ⟨r, hr, ⟨_, rfl⟩ | ⟨_, he⟩⟩ := hostPhase_cases h
  · subst hr; split <;> rfl
  · have : r.tx = s.tx := by subst hr; split <;> rfl
    rw [exec_tx_busy he (by rw [this]; exact hb), this]

/-! The engines' part changes the engines and the message only. -/

theorem edgeStep_frame (pct : BitVec 8) (d : Word) (s : State) :
    edgeStep pct d s = { s with rx := (edgeStep pct d s).rx, msg := (edgeStep pct d s).msg } := by
  simp only [edgeStep, storeStep, overflowStep, gapStep, countGap, publishFound_eq]
  split <;> split <;> (try split) <;> (try split) <;> rfl

theorem enginePhase_frame (c : CycleIn) (st s : State) :
    enginePhase c st s = { s with rx := (enginePhase c st s).rx, msg := (enginePhase c st s).msg,
                                  tx := (enginePhase c st s).tx } := by
  simp only [enginePhase, transmitPhase, receivePhase, consumePending]
  rw [edgeStep_frame]
  split <;> split <;> rfl

section
variable (c : CycleIn) (st s : State)
@[simp] theorem enginePhase_par : (enginePhase c st s).par = s.par := by rw [enginePhase_frame]
@[simp] theorem enginePhase_ctrl : (enginePhase c st s).ctrl = s.ctrl := by rw [enginePhase_frame]
@[simp] theorem enginePhase_selClamped : (enginePhase c st s).selClamped = s.selClamped := by
  rw [enginePhase_frame]
@[simp] theorem enginePhase_ap : (enginePhase c st s).ap = s.ap := by rw [enginePhase_frame]
@[simp] theorem enginePhase_repeatCount : (enginePhase c st s).repeatCount = s.repeatCount := by
  rw [enginePhase_frame]
@[simp] theorem enginePhase_txValue : (enginePhase c st s).txValue = s.txValue := by
  rw [enginePhase_frame]
@[simp] theorem enginePhase_txLen : (enginePhase c st s).txLen = s.txLen := by rw [enginePhase_frame]
@[simp] theorem enginePhase_rxTol : (enginePhase c st s).rxTol = s.rxTol := by rw [enginePhase_frame]
@[simp] theorem enginePhase_busRdata : (enginePhase c st s).busRdata = s.busRdata := by
  rw [enginePhase_frame]
@[simp] theorem enginePhase_inputs : (enginePhase c st s).inputs = s.inputs := by
  rw [enginePhase_frame]

/-- The transmit engine at the end of a cycle: one tick step if the cycle has a tick and the engine was
not idle at its start (R239, R92). -/
theorem enginePhase_tx : (enginePhase c st s).tx =
    if c.usTick && decide (st.tx.state ≠ .idle) then tickEngine s.par.txFinalFollowsInvert s.tx
    else s.tx := by
  simp only [enginePhase, transmitPhase, receivePhase, consumePending]
  rw [edgeStep_frame]
  split <;> split <;> rfl

/-- The receive engine at the end of a cycle: the pending edge step if it is due, then the front end. -/
theorem enginePhase_rx : (enginePhase c st s).rx =
    frontEnd s.par.minEdgeSpacing c.usTick c.rxIn (accepted st) st.rx
      (if edgeDue c.edgeGo st.rx then (consumePending st.rxTol s).rx else s.rx) := by
  have hp : (consumePending st.rxTol s).par = s.par := by
    unfold consumePending; rw [edgeStep_frame]
  simp only [enginePhase, transmitPhase, receivePhase]
  split <;> split <;> simp_all

/-- The message at the end of a cycle: changed by the pending edge step only, if it is due. -/
theorem enginePhase_msg : (enginePhase c st s).msg =
    if edgeDue c.edgeGo st.rx then (edgeStep st.rxTol s.rx.pendDur s).msg else s.msg := by
  simp only [enginePhase, transmitPhase, receivePhase, consumePending]
  split <;> split <;> rfl
end

end Sys2Proof.Machine
end

