-- ==== Sys2Proof/Laws/Decoder.lean ====
section
/-! SUPPORT. Laws/Decoder.lean: the trial and the iteration over the ROM, one step at a time
(44_decoder.md R320, R326). -/

namespace Sys2Proof.Machine

theorem within_strict (x e tol : Nat) : within false x e tol = true ↔ absdiff x e < tol := by
  simp [within]

theorem within_inclusive (x e tol : Nat) : within true x e tol = true ↔ absdiff x e ≤ tol := by
  simp [within]

/-- One pair of the loop (R326). -/
theorem decodePairs_cons (inclusive : Bool) (p : Protocol) (unit tol : Nat) (a b : Word)
    (rest : List Word) (acc : Word) :
    decodePairs inclusive p unit tol (a :: b :: rest) acc =
      if pairMatches inclusive p.zero unit tol a b then
        decodePairs inclusive p unit tol rest (acc <<< 1)
      else if pairMatches inclusive p.one unit tol a b then
        decodePairs inclusive p unit tol rest (acc <<< 1 ||| 1)
      else none := by
  rw [decodePairs]

@[simp] theorem decodePairs_nil (inclusive : Bool) (p : Protocol) (unit tol : Nat) (acc : Word) :
    decodePairs inclusive p unit tol [] acc = some acc := by
  simp [decodePairs]

@[simp] theorem decodePairs_single (inclusive : Bool) (p : Protocol) (unit tol : Nat) (a acc : Word) :
    decodePairs inclusive p unit tol [a] acc = some acc := by
  simp [decodePairs]

/-- A trial succeeds when there are more than 7 edges and the pairs decode (R326, R328). -/
theorem trial_eq_success (inclusive : Bool) (pct : Nat) (p : Protocol) (buf : Vector Word Config.cap)
    (n : Nat) (acc : Word) (unit : Nat) :
    trial inclusive pct p buf n = .success acc unit ↔
      7 < n ∧ unit = baseUnit p (capRead buf 0).toNat ∧
      decodePairs inclusive p unit (tolerance unit pct) (trialEntries p buf n) 0 = some acc := by
  unfold trial
  by_cases h : n ≤ 7
  · simp [h, Nat.not_lt.2 h]
  · rw [if_neg h]
    simp only [Nat.not_le.1 h, true_and]
    cases hd : decodePairs inclusive p (baseUnit p (capRead buf 0).toNat)
      (tolerance (baseUnit p (capRead buf 0).toNat) pct) (trialEntries p buf n) 0 with
    | none =>
      simp only [reduceCtorEq, false_iff, not_and]
      rintro rfl hs
      exact nomatch hd.symm.trans hs
    | some a =>
      simp only [TrialResult.success.injEq]
      constructor
      · rintro ⟨rfl, rfl⟩
        exact ⟨rfl, hd⟩
      · rintro ⟨rfl, h2⟩
        exact ⟨Option.some.inj (hd.symm.trans h2), rfl⟩

/-- One candidate of the iteration (R320). -/
theorem tryFrom_cons_success (inclusive : Bool) (pct : Nat) (buf : Vector Word Config.cap) (n : Nat)
    (p : Protocol) (ps : List Protocol) (id : Nat) (acc : Word) (unit : Nat)
    (h : trial inclusive pct p buf n = .success acc unit) :
    tryFrom inclusive pct buf n (p :: ps) id = some (messageOf acc unit n id) := by
  simp [tryFrom, h]

/-- A candidate that fails leaves no trace: the next one is tried (R320). -/
theorem tryFrom_cons_fail (inclusive : Bool) (pct : Nat) (buf : Vector Word Config.cap) (n : Nat)
    (p : Protocol) (ps : List Protocol) (id : Nat)
    (h : ∀ a u, trial inclusive pct p buf n ≠ .success a u) :
    tryFrom inclusive pct buf n (p :: ps) id = tryFrom inclusive pct buf n ps (id + 1) := by
  rw [tryFrom]
  cases ht : trial inclusive pct p buf n with
  | success a u => exact absurd ht (h a u)
  | noMatch => rfl
  | tooShort => rfl

theorem trialEntries_length (p : Protocol) (buf : Vector Word Config.cap) (n : Nat) (h : n ≤ 67) :
    (trialEntries p buf n).length = n - dataStart p := by
  simp only [trialEntries, List.length_drop, List.length_take, Vector.length_toList]
  rw [Nat.min_eq_left h]

theorem trialEntries_getD (p : Protocol) (buf : Vector Word Config.cap) (n i : Nat)
    (h : dataStart p + i < n) : (trialEntries p buf n).getD i 0 = capRead buf (dataStart p + i) := by
  simp only [trialEntries, capRead, List.getD_eq_getElem?_getD, List.getElem?_drop, List.getElem?_take]
  rw [if_pos h]

end Sys2Proof.Machine
end

