-- ==== Sys2Proof/Laws/HostProgram.lean ====
section
/-! SUPPORT. Laws/HostProgram.lean: what one cycle of a host program does, said once (30_encoding.md R124,
20_memory.md R90). -/

namespace Sys2Proof.Machine

/-- A cycle of a host program that answers: a step with the first action's transaction on the bus. -/
theorem hostCycle_cons {a : HostAction} {rest program' : List HostAction} {s t : State}
    (h : hostCycle (a :: rest) s = .next (program', t)) :
    step (placeTransaction s (encode (hostInstr a))) = .next t ∧ program' = hostRest a rest t := by
  simp only [hostCycle] at h
  cases hs : step (placeTransaction s (encode (hostInstr a))) with
  | next u =>
    rw [hs] at h
    cases h
    exact ⟨rfl, rfl⟩
  | fault r => exact nomatch r
  | refused r => rw [hs] at h; cases h

@[simp] theorem hostRest_transact (i : Instr) (rest : List HostAction) (t : State) :
    hostRest (.transact i) rest t = rest := rfl

/-- A placed read drives `bus_rdata` with the register's word at the start of the cycle. -/
theorem step_placed_read {a : BitVec 4} {d : Word} {s t : State}
    (h : step (placeTransaction s (txnWord false a d)) = .next t) :
    t.busRdata = some (registerWord a s) := by
  obtain ⟨_, ⟨hr, _⟩ | ⟨_, _, u, hu, rfl⟩⟩ := step_cases h
  · exact nomatch hr
  · rw [enginePhase_busRdata]
    obtain ⟨r, rfl, ⟨_, rfl⟩ | ⟨hw, _⟩⟩ := hostPhase_cases hu
    · simp only [placeTransaction, nextCycle, withTransaction, List.headD_cons, txnW_txnWord,
        txnA_txnWord, Bool.not_false, if_true]
      rfl
    · simp [placeTransaction, nextCycle, withTransaction] at hw

/-- Bit 0 of STATUS is TX_BUSY (R43). -/
theorem statusWord_bit0 (s : State) : (statusWord s).getLsbD 0 = txBusy s := by
  simp only [statusWord, BitVec.getLsbD_setWidth, BitVec.getLsbD_append, BitVec.getLsbD_ofBool]
  simp

/-- `WAIT_TX` goes on while the engine is busy at the start of the cycle and ends at the first read after
the transmission has ended (R124). -/
theorem hostCycle_waitTx {rest program' : List HostAction} {s t : State}
    (h : hostCycle (.waitTx :: rest) s = .next (program', t)) :
    program' = if s.tx.state = .idle then rest else .waitTx :: rest := by
  obtain ⟨hs, rfl⟩ := hostCycle_cons h
  have hb := step_placed_read hs
  have hw : registerWord 1 s = statusWord s := rfl
  simp only [hostRest, hostRepeats, hb, hw, Option.getD_some, statusWord_bit0, txBusy]
  by_cases hi : s.tx.state = .idle <;> simp [hi]

end Sys2Proof.Machine
end

