-- ==== Sys2Proof/Laws/PerInstr.lean ====
section
/-! SUPPORT. Laws/PerInstr.lean: the family EncodedRow, one lemma per host transaction: the word of a
transaction carries the `W` and the `A` of its row of the opcode map (30_encoding.md R110, R115). -/

namespace Sys2Proof.Laws.EncodedRow

/-- The row's word address (R115). -/
def address : Instr → BitVec 4
  | .rdCtrl => 0
  | .rdStatus => 1
  | .rdCmd => 2
  | .rdProtoBase => 3
  | .rdProtoSync => 4
  | .rdProtoZero => 5
  | .rdProtoOne => 6
  | .rdProtoFlags => 7
  | .rdRepeat => 8
  | .rdTxValue => 9
  | .rdTxLen => 10
  | .rdRxTol => 11
  | .rdMsgValue => 12
  | .rdMsgBitlen => 13
  | .rdMsgProto => 14
  | .rdMsgDelay => 15
  | .wrCtrl _ => 0
  | .wrStatus _ => 1
  | .cmdNop => 2
  | .cmdInit => 2
  | .cmdSelproto _ => 2
  | .cmdTxstart => 2
  | .cmdConsume => 2
  | .cmdReserved _ _ => 2
  | .wrProtoBase _ => 3
  | .wrProtoSync _ => 4
  | .wrProtoZero _ => 5
  | .wrProtoOne _ => 6
  | .wrProtoFlags _ => 7
  | .wrRepeat _ => 8
  | .wrTxValue _ => 9
  | .wrTxLen _ => 10
  | .wrRxTol _ => 11
  | .wrMsgValue _ => 12
  | .wrMsgBitlen _ => 13
  | .wrMsgProto _ => 14
  | .wrMsgDelay _ => 15

/-- `W` is 0 for a read and 1 for a write, and `A` is the row's address (R110, R115). -/
def Statement (i : Instr) : Prop := txnW (encode i) = !i.isRead ∧ txnA (encode i) = address i

theorem rdCtrl : Statement .rdCtrl := by
  simp [Statement, encode, address, Instr.isRead]
theorem rdStatus : Statement .rdStatus := by
  simp [Statement, encode, address, Instr.isRead]
theorem rdCmd : Statement .rdCmd := by
  simp [Statement, encode, address, Instr.isRead]
theorem rdProtoBase : Statement .rdProtoBase := by
  simp [Statement, encode, address, Instr.isRead]
theorem rdProtoSync : Statement .rdProtoSync := by
  simp [Statement, encode, address, Instr.isRead]
theorem rdProtoZero : Statement .rdProtoZero := by
  simp [Statement, encode, address, Instr.isRead]
theorem rdProtoOne : Statement .rdProtoOne := by
  simp [Statement, encode, address, Instr.isRead]
theorem rdProtoFlags : Statement .rdProtoFlags := by
  simp [Statement, encode, address, Instr.isRead]
theorem rdRepeat : Statement .rdRepeat := by
  simp [Statement, encode, address, Instr.isRead]
theorem rdTxValue : Statement .rdTxValue := by
  simp [Statement, encode, address, Instr.isRead]
theorem rdTxLen : Statement .rdTxLen := by
  simp [Statement, encode, address, Instr.isRead]
theorem rdRxTol : Statement .rdRxTol := by
  simp [Statement, encode, address, Instr.isRead]
theorem rdMsgValue : Statement .rdMsgValue := by
  simp [Statement, encode, address, Instr.isRead]
theorem rdMsgBitlen : Statement .rdMsgBitlen := by
  simp [Statement, encode, address, Instr.isRead]
theorem rdMsgProto : Statement .rdMsgProto := by
  simp [Statement, encode, address, Instr.isRead]
theorem rdMsgDelay : Statement .rdMsgDelay := by
  simp [Statement, encode, address, Instr.isRead]
theorem wrCtrl (d : Word) : Statement (.wrCtrl d) := by
  simp [Statement, encode, address, Instr.isRead]
theorem wrStatus (d : Word) : Statement (.wrStatus d) := by
  simp [Statement, encode, address, Instr.isRead]
theorem cmdNop : Statement .cmdNop := by
  simp [Statement, encode, cmdWord, address, Instr.isRead]
theorem cmdInit : Statement .cmdInit := by
  simp [Statement, encode, cmdWord, address, Instr.isRead]
theorem cmdSelproto (arg : BitVec 24) : Statement (.cmdSelproto arg) := by
  simp [Statement, encode, cmdWord, address, Instr.isRead]
theorem cmdTxstart : Statement .cmdTxstart := by
  simp [Statement, encode, cmdWord, address, Instr.isRead]
theorem cmdConsume : Statement .cmdConsume := by
  simp [Statement, encode, cmdWord, address, Instr.isRead]
theorem cmdReserved (op : BitVec 8) (arg : BitVec 24) : Statement (.cmdReserved op arg) := by
  simp [Statement, encode, cmdWord, address, Instr.isRead]
theorem wrProtoBase (d : Word) : Statement (.wrProtoBase d) := by
  simp [Statement, encode, address, Instr.isRead]
theorem wrProtoSync (d : Word) : Statement (.wrProtoSync d) := by
  simp [Statement, encode, address, Instr.isRead]
theorem wrProtoZero (d : Word) : Statement (.wrProtoZero d) := by
  simp [Statement, encode, address, Instr.isRead]
theorem wrProtoOne (d : Word) : Statement (.wrProtoOne d) := by
  simp [Statement, encode, address, Instr.isRead]
theorem wrProtoFlags (d : Word) : Statement (.wrProtoFlags d) := by
  simp [Statement, encode, address, Instr.isRead]
theorem wrRepeat (d : Word) : Statement (.wrRepeat d) := by
  simp [Statement, encode, address, Instr.isRead]
theorem wrTxValue (d : Word) : Statement (.wrTxValue d) := by
  simp [Statement, encode, address, Instr.isRead]
theorem wrTxLen (d : Word) : Statement (.wrTxLen d) := by
  simp [Statement, encode, address, Instr.isRead]
theorem wrRxTol (d : Word) : Statement (.wrRxTol d) := by
  simp [Statement, encode, address, Instr.isRead]
theorem wrMsgValue (d : Word) : Statement (.wrMsgValue d) := by
  simp [Statement, encode, address, Instr.isRead]
theorem wrMsgBitlen (d : Word) : Statement (.wrMsgBitlen d) := by
  simp [Statement, encode, address, Instr.isRead]
theorem wrMsgProto (d : Word) : Statement (.wrMsgProto d) := by
  simp [Statement, encode, address, Instr.isRead]
theorem wrMsgDelay (d : Word) : Statement (.wrMsgDelay d) := by
  simp [Statement, encode, address, Instr.isRead]

end Sys2Proof.Laws.EncodedRow
end

