-- ==== Sys2Proof/Laws/Transmit.lean ====
section
/-! SUPPORT. Laws/Transmit.lean: positions, durations and one tick step of the transmit engine
(42_transmitter.md R238 to R241). -/

namespace Sys2Proof.Machine

/-- A segment's duration fits the 24-bit timer (R232). -/
theorem product_le (b : BitVec 16) (f : BitVec 8) : b.toNat * f.toNat ≤ 16711425 := by
  have hb : b.toNat ≤ 65535 := by omega
  have hf : f.toNat ≤ 255 := by omega
  calc b.toNat * f.toNat ≤ 65535 * 255 := Nat.mul_le_mul hb hf
    _ = 16711425 := by norm_num

theorem posDuration_le (l : TxLatch) (p : TxPos) : posDuration l p ≤ 16711425 := by
  unfold posDuration
  split <;> exact product_le _ _

/-- The timer holds the duration of the segment it is loaded with (R239, R232). -/
theorem timer_toNat (l : TxLatch) (p : TxPos) :
    (BitVec.ofNat 24 (posDuration l p)).toNat = posDuration l p := by
  have := posDuration_le l p
  simp only [BitVec.toNat_ofNat]
  exact Nat.mod_eq_of_lt (by omega)

/-- What a search finds has nonzero duration (R240). -/
theorem seekPos_pos {l : TxLatch} {n : Nat} {o : Option TxPos} {p : TxPos}
    (h : seekPos l n o = some p) : 0 < posDuration l p := by
  induction n generalizing o with
  | zero => simp [seekPos] at h
  | succ n ih =>
    cases o with
    | none => simp [seekPos] at h
    | some q =>
      rw [seekPos] at h
      split at h
      case isTrue hq => cases h; exact hq
      case isFalse => exact ih h

/-- A property that the start of a search has and `succ` keeps holds of what the search finds. -/
theorem seekPos_induct {l : TxLatch} {P : TxPos → Prop}
    (hs : ∀ p q, P p → succPos l p = some q → P q) {n : Nat} {o : Option TxPos} {p : TxPos}
    (ho : ∀ q, o = some q → P q) (h : seekPos l n o = some p) : P p := by
  induction n generalizing o with
  | zero => simp [seekPos] at h
  | succ n ih =>
    cases o with
    | none => simp [seekPos] at h
    | some q =>
      rw [seekPos] at h
      split at h
      case isTrue => cases h; exact ho _ rfl
      case isFalse => exact ih (fun r hr => hs q r (ho q rfl) hr) h

theorem frameStart_inRange (l : TxLatch) (b : BitVec 6) (r : BitVec 16) (h : r.toNat < l.rep.toNat) :
    (frameStart l b r).inRange l := by
  unfold frameStart
  split
  case isTrue => exact ⟨h, by simp⟩
  case isFalse hl =>
    refine ⟨h, fun _ => ?_⟩
    have : l.len.toNat ≠ 0 := fun h0 => hl (BitVec.eq_of_toNat_eq (by simpa using h0))
    have : (l.len - 1).toNat = l.len.toNat - 1 := by
      rw [BitVec.toNat_sub_of_le] <;> simp [BitVec.le_def]; omega
    show (l.len - 1).toNat < l.len.toNat
    omega

theorem startPos_inRange (l : TxLatch) (p : TxPos) (h : startPos l = some p) : p.inRange l := by
  unfold startPos at h
  split at h
  case isTrue => simp at h
  case isFalse hr =>
    cases h
    apply frameStart_inRange
    have : l.rep.toNat ≠ 0 := fun h0 => hr (BitVec.eq_of_toNat_eq (by simpa using h0))
    show (0#16).toNat < _
    simp; omega

/-- `succ` keeps a position in range (R240). -/
theorem succPos_inRange (l : TxLatch) (p q : TxPos) (hp : p.inRange l) (h : succPos l p = some q) :
    q.inRange l := by
  obtain ⟨ph, b, r⟩ := p
  obtain ⟨hr, hb⟩ := hp
  cases ph with
  | da => simp only [succPos, Option.some.injEq] at h; subst h; exact ⟨hr, fun _ => hb (.inl rfl)⟩
  | di =>
    simp only [succPos] at h
    split at h
    case isTrue => cases h; exact ⟨hr, by simp⟩
    case isFalse h0 =>
      cases h
      refine ⟨hr, fun _ => ?_⟩
      have h1 : b.toNat < l.len.toNat := hb (.inr rfl)
      have h2 : b.toNat ≠ 0 := fun h => h0 (BitVec.eq_of_toNat_eq (by simpa using h))
      have : (b - 1).toNat = b.toNat - 1 := by
        rw [BitVec.toNat_sub_of_le] <;> simp [BitVec.le_def]; omega
      show (b - 1).toNat < l.len.toNat
      omega
  | sa => simp only [succPos, Option.some.injEq] at h; subst h; exact ⟨hr, by simp⟩
  | si =>
    simp only [succPos] at h
    split at h
    case isTrue hn =>
      cases h
      apply frameStart_inRange
      have : (r + 1).toNat = r.toNat + 1 := by
        rw [BitVec.toNat_add_of_lt] <;> simp; omega
      omega
    case isFalse => simp at h

section enterSegment
variable (f : Bool) (e : TxEngine) (p : TxPos)
@[simp] theorem enterSegment_none_state : (enterSegment f e none).state = .idle := rfl
@[simp] theorem enterSegment_none_level :
    (enterSegment f e none).level = finalLevel f e.latch := rfl
@[simp] theorem enterSegment_some_state : (enterSegment f e (some p)).state = .run := rfl
@[simp] theorem enterSegment_some_level : (enterSegment f e (some p)).level = posLevel e.latch p := rfl
@[simp] theorem enterSegment_some_pos : (enterSegment f e (some p)).pos = p := rfl
@[simp] theorem enterSegment_some_timer :
    (enterSegment f e (some p)).timer = BitVec.ofNat 24 (posDuration e.latch p) := rfl
@[simp] theorem enterSegment_latch (o : Option TxPos) : (enterSegment f e o).latch = e.latch := by
  cases o <;> rfl
end enterSegment

/-- All that a tick step can do (R239). -/
theorem tickEngine_cases (f : Bool) (e : TxEngine) :
    (e.state = .idle ∧ tickEngine f e = e) ∨
    (e.state = .armed ∧ tickEngine f e = enterSegment f e (firstPos e.latch)) ∨
    (e.state = .run ∧ e.timer - 1 = 0 ∧
      tickEngine f e = enterSegment f { e with timer := e.timer - 1 } (nextPos e.latch e.pos)) ∨
    (e.state = .run ∧ e.timer - 1 ≠ 0 ∧ tickEngine f e = { e with timer := e.timer - 1 }) := by
  unfold tickEngine
  match h : e.state with
  | .idle => exact .inl ⟨rfl, rfl⟩
  | .armed => exact .inr (.inl ⟨rfl, rfl⟩)
  | .run =>
    by_cases ht : e.timer - 1 = 0
    · exact .inr (.inr (.inl ⟨rfl, ht, if_pos ht⟩))
    · exact .inr (.inr (.inr ⟨rfl, ht, if_neg ht⟩))

@[simp] theorem tickEngine_latch (f : Bool) (e : TxEngine) : (tickEngine f e).latch = e.latch := by
  obtain ⟨_, h⟩ | ⟨_, h⟩ | ⟨_, _, h⟩ | ⟨_, _, h⟩ := tickEngine_cases f e <;> simp [h]

/-- An idle engine stays as it is. -/
theorem tickTimes_idle (f : Bool) (n : Nat) (e : TxEngine) (h : e.state = .idle) :
    tickTimes f n e = e := by
  induction n with
  | zero => rfl
  | succ n ih =>
    have : tickEngine f e = e := by simp [tickEngine, h]
    rw [tickTimes, this, ih]

theorem tickTimes_add (f : Bool) (a b : Nat) (e : TxEngine) :
    tickTimes f (a + b) e = tickTimes f b (tickTimes f a e) := by
  induction a generalizing e with
  | zero => simp [tickTimes]
  | succ a ih => rw [Nat.add_right_comm, tickTimes, ih]; rfl

theorem bitSegments_length (l : TxLatch) (n : Nat) : (bitSegments l n).length = 2 * n := by
  induction n with
  | zero => rfl
  | succ n ih => simp only [bitSegments, shapeSegments, List.length_append, List.length_cons,
      List.length_nil, ih]; omega

theorem repeatFrames_length (l : TxLatch) (n : Nat) :
    (repeatFrames l n).length = n * (2 * l.len.toNat + 2) := by
  induction n with
  | zero => simp [repeatFrames]
  | succ n ih =>
    simp only [repeatFrames, frameSegments, shapeSegments, List.length_append, bitSegments_length,
      List.length_cons, List.length_nil, ih]
    ring

end Sys2Proof.Machine
end

