-- ==== Sys2Proof/Tests/Slice0.lean ====
section
/-! SUPPORT. Tests/Slice0.lean: the model against the spec's own words, vectors and examples, and for every
obligation with hypotheses a concrete state that meets them. Expected results are 95_test_vectors.md's (the
identifier of the vector is named) or are written out from the rule named. -/

namespace Sys2Proof.Tests

open Sys2Proof.Machine

/-! Well-formedness (R115, R117). -/

theorem test_wf_refuses_reserved_opcode_4 : (Instr.cmdReserved 4 0).wf = false := by decide
theorem test_wf_refuses_reserved_opcode_0 : (Instr.cmdReserved 0 0xFFFFFF).wf = false := by decide
theorem test_wf_accepts_reserved_opcode_5 : (Instr.cmdReserved 5 0).wf = true := by decide

/-! Decoding: one word for every row, its bits written out from R110, R113 and R115. -/

theorem test_decode_rdCtrl : decodeTableWord 40 0x0000000000 = some .rdCtrl := by decide
theorem test_decode_rdStatus : decodeTableWord 40 0x0100000000 = some .rdStatus := by decide
theorem test_decode_rdCmd : decodeTableWord 40 0x0200000000 = some .rdCmd := by decide
theorem test_decode_rdProtoBase : decodeTableWord 40 0x0300000000 = some .rdProtoBase := by decide
theorem test_decode_rdProtoSync : decodeTableWord 40 0x0400000000 = some .rdProtoSync := by decide
theorem test_decode_rdProtoZero : decodeTableWord 40 0x0500000000 = some .rdProtoZero := by decide
theorem test_decode_rdProtoOne : decodeTableWord 40 0x0600000000 = some .rdProtoOne := by decide
theorem test_decode_rdProtoFlags : decodeTableWord 40 0x0700000000 = some .rdProtoFlags := by decide
theorem test_decode_rdRepeat : decodeTableWord 40 0x0800000000 = some .rdRepeat := by decide
theorem test_decode_rdTxValue : decodeTableWord 40 0x0900000000 = some .rdTxValue := by decide
theorem test_decode_rdTxLen : decodeTableWord 40 0x0A00000000 = some .rdTxLen := by decide
theorem test_decode_rdRxTol : decodeTableWord 40 0x0B00000000 = some .rdRxTol := by decide
theorem test_decode_rdMsgValue : decodeTableWord 40 0x0C12345678 = some .rdMsgValue := by decide
theorem test_decode_rdMsgBitlen : decodeTableWord 40 0x0D00000000 = some .rdMsgBitlen := by decide
theorem test_decode_rdMsgProto : decodeTableWord 40 0x0E00000000 = some .rdMsgProto := by decide
theorem test_decode_rdMsgDelay : decodeTableWord 40 0x0F00000000 = some .rdMsgDelay := by decide
theorem test_decode_wrCtrl : decodeTableWord 40 0x1000000501 = some (.wrCtrl 0x501) := by decide
theorem test_decode_wrStatus : decodeTableWord 40 0x1100000007 = some (.wrStatus 0x7) := by decide
theorem test_decode_cmdNop : decodeTableWord 40 0x1200FFFFFF = some .cmdNop := by decide
theorem test_decode_cmdInit : decodeTableWord 40 0x1201000000 = some .cmdInit := by decide
theorem test_decode_cmdSelproto : decodeTableWord 40 0x1202000003 = some (.cmdSelproto 3) := by decide
theorem test_decode_cmdTxstart : decodeTableWord 40 0x1203800001 = some .cmdTxstart := by decide
theorem test_decode_cmdConsume : decodeTableWord 40 0x1204000000 = some .cmdConsume := by decide
theorem test_decode_cmdReserved : decodeTableWord 40 0x12FF123456 = some (.cmdReserved 0xFF 0x123456) := by decide
theorem test_decode_wrProtoBase : decodeTableWord 40 0x130000015E = some (.wrProtoBase 0x15E) := by decide
theorem test_decode_wrProtoSync : decodeTableWord 40 0x1400001F01 = some (.wrProtoSync 0x1F01) := by decide
theorem test_decode_wrProtoZero : decodeTableWord 40 0x1500000301 = some (.wrProtoZero 0x301) := by decide
theorem test_decode_wrProtoOne : decodeTableWord 40 0x1600000103 = some (.wrProtoOne 0x103) := by decide
theorem test_decode_wrProtoFlags : decodeTableWord 40 0x1700000000 = some (.wrProtoFlags 0x0) := by decide
theorem test_decode_wrRepeat : decodeTableWord 40 0x1800000003 = some (.wrRepeat 0x3) := by decide
theorem test_decode_wrTxValue : decodeTableWord 40 0x190075740C = some (.wrTxValue 0x75740C) := by decide
theorem test_decode_wrTxLen : decodeTableWord 40 0x1A00000018 = some (.wrTxLen 0x18) := by decide
theorem test_decode_wrRxTol : decodeTableWord 40 0x1B0000003C = some (.wrRxTol 0x3C) := by decide
theorem test_decode_wrMsgValue : decodeTableWord 40 0x1C80000001 = some (.wrMsgValue 0x80000001) := by decide
theorem test_decode_wrMsgBitlen : decodeTableWord 40 0x1D80000001 = some (.wrMsgBitlen 0x80000001) := by decide
theorem test_decode_wrMsgProto : decodeTableWord 40 0x1E80000001 = some (.wrMsgProto 0x80000001) := by decide
theorem test_decode_wrMsgDelay : decodeTableWord 40 0x1FFFFFFFFF = some (.wrMsgDelay 0xFFFFFFFF) := by decide
theorem test_decode_refuses_a_bit_38 : decodeTableWord 40 0x4000000000 = none := by decide
theorem test_decode_names_its_refusal :
    decodeNumber 0x2000000000 = .error .widerThanTransactionWord := by decide

/-! States for the tests. -/

/-- The state an outcome gives. -/
def after (o : Host.Outcome State Fault Refusal) : State :=
  match o with
  | .next s => s
  | .fault _ => State.reset
  | .refused _ => State.reset

/-- The outcome is a next state. -/
def runs (o : Host.Outcome State Fault Refusal) : Bool :=
  match o with
  | .next _ => true
  | .fault _ => false
  | .refused _ => false

theorem next_of_runs {o : Host.Outcome State Fault Refusal} (h : runs o = true) : o = .next (after o) := by
  cases o with
  | next s => rfl
  | fault r => exact nomatch r
  | refused r => simp [runs] at h

/-- The state after one transaction. -/
def run (i : Instr) (s : State) : State := after (exec i s)

/-- What is left of a `WAIT_TX` after one cycle. -/
def waitLeft (s : State) : List HostAction :=
  match hostCycle opWaitTx s with
  | .next (rest, _) => rest
  | .fault _ => []
  | .refused _ => []

/-- What a read of a register returns. -/
def readOf (i : Instr) (s : State) : Option Word := (run i s).busRdata

/-- The five words of the active protocol registers. -/
def protoWords (s : State) : List Word :=
  [s.ap.base.setWidth 32, shapeWord s.ap.sync, shapeWord s.ap.zero, shapeWord s.ap.one, flagsWord s.ap]

/-- Just after reset with the vector ROM (95_test_vectors.md section 0). -/
def start : State := State.reset

/-- A cycle with no reset: tick, line, and edge schedule as given, and no transaction. -/
def idleCycle (usTick rxIn edgeGo : Bool) : CycleIn := ⟨false, usTick, rxIn, false, false, 0, 0, edgeGo⟩

/-- A cycle that writes `d` at word address `a`. -/
def writeCycle (a : BitVec 4) (d : Word) (usTick edgeGo : Bool) : CycleIn :=
  ⟨false, usTick, false, true, false, a, d, edgeGo⟩

/-- A cycle that reads word address `a`. -/
def readCycle (a : BitVec 4) : CycleIn := ⟨false, false, false, false, true, a, 0, false⟩

/-- `s` with one cycle to come. -/
def given (c : CycleIn) (s : State) : State := { s with inputs := [c] }

/-- A cycle with both strobes high. -/
def bothStrobes : State := given { writeCycle 10 24 false false with busRe := true } { start with txLen := 7 }

/-- A reset cycle with everything else active too. -/
def resetCycle : CycleIn := ⟨true, true, true, true, true, 2, 0x03000000, true⟩

/-- Transmit and receive enabled on lines 5 and 4. -/
def enabled : State := { start with ctrl := ⟨true, true, 5, 4⟩ }

/-- The latched copy of the source's example (R246). -/
def exampleLatch : TxLatch := ⟨350, ⟨1, 31⟩, ⟨1, 3⟩, ⟨3, 1⟩, false, 2, 2, 1⟩

/-- An engine that has accepted the source's example. -/
def armedEngine : TxEngine := armEngine exampleLatch TxEngine.reset

/-- An engine in the first segment of the source's example with `n` ticks left. -/
def runningEngine (n : BitVec 24) : TxEngine := ⟨.run, ⟨.da, 1, 0⟩, n, true, exampleLatch⟩

/-- A block that transmits the source's example. -/
def running : State := { enabled with tx := runningEngine 1050 }

/-- The durations of a clean frame of "101" on T1, its gap first (R337, TR-1). -/
def frame101 : List Word := [10850, 1050, 350, 350, 1050, 1050, 350, 350]

/-- The block after the edges of `ds`, with tolerance 60. -/
def edges (ds : List Word) : State := edgeSteps 60 ds start

/-- A block in which a transition with duration `d` waits after the edges of `ds`. -/
def waiting (ds : List Word) (d : Word) (guard : Nat) : State :=
  { edges ds with ctrl := ⟨true, true, 5, 4⟩, rx := { (edges ds).rx with pend := true, pendDur := d, guard := guard } }

/-- A block whose synchronised line has just changed (R281). -/
def changing (rxEn : Bool) (guard : Nat) : State :=
  { start with ctrl := ⟨false, rxEn, 0, 0⟩, rx := { start.rx with sync := [true, true], since := 41, guard := guard } }

/-- A block with a malformed table: a base of 0 (R11). -/
def malformed : State :=
  { start with par := { start.par with table := ⟨{ Config.vectorT1 with base := 0 }, []⟩ } }

/-- A message was published. -/
def published : State := { start with msg := ⟨341, 12, 1, 350⟩ }

/-- `buffer[0..n-1]`, `changeCount`, `repeatConfirmCount` and the message. -/
def capture (s : State) (n : Nat) : List Word × Nat × Nat × Message :=
  (s.rx.buffer.toList.take n, s.rx.changeCount, s.rx.repeatConfirmCount, s.msg)

/-- A buffer that holds `ds` from entry `i` on. -/
def bufferFrom : List Word → Nat → Vector Word Config.cap → Vector Word Config.cap
  | [], _, buf => buf
  | d :: ds, i, buf => bufferFrom ds (i + 1) (capWrite buf i d)

/-- A buffer that holds `ds` from entry 0 on. -/
def bufferOf (ds : List Word) : Vector Word Config.cap := bufferFrom ds 0 (Vector.replicate Config.cap 0)

/-! Register accesses (95_test_vectors.md 2.2) and the examples of 40_host_registers.md. -/

/-- RG-1. -/
theorem test_rdCtrl : readOf .rdCtrl (run (.wrCtrl 0xFFFFFFFF) start) = some 0x00FFFF03 := by decide
/-- R152's example: 0xFF040303 reads back 0x00040303. -/
theorem test_wrCtrl : (run (.wrCtrl 0xFF040303) start).ctrl = ⟨true, true, 3, 4⟩ := by decide
/-- CM-4 and R154: after a clamped selection STATUS is 0x4. -/
theorem test_rdStatus_clamped : readOf .rdStatus (run (.cmdSelproto 0) start) = some 4 := by decide
/-- P4: STATUS is 1 after an accepted TXSTART; with a message too it is 3 (R43). -/
theorem test_rdStatus_busy_and_available :
    readOf .rdStatus { published with tx := armedEngine } = some 3 := by decide
/-- RG-9. -/
theorem test_wrStatus : readOf .rdStatus (run (.wrStatus 0xFFFFFFFF) start) = some 0 := by decide
/-- RG-11 and R156's example. -/
theorem test_rdCmd : readOf .rdCmd (run (.cmdSelproto 3) start) = some 0 := by decide
/-- R157's example. -/
theorem test_rdProtoBase : readOf .rdProtoBase start = some 350 := by decide
/-- RG-2; only the base changes. -/
theorem test_wrProtoBase :
    protoWords (run (.wrProtoBase 0x12345678) start) = [0x5678, 0x1F01, 0x301, 0x103, 0] := by decide
/-- R159's example. -/
theorem test_rdProtoSync : readOf .rdProtoSync start = some 0x1F01 := by decide
/-- RG-3. -/
theorem test_wrProtoSync :
    protoWords (run (.wrProtoSync 0xABCD0A02) start) = [350, 0x0A02, 0x301, 0x103, 0] := by decide
/-- R161's example. -/
theorem test_rdProtoZero : readOf .rdProtoZero start = some 0x301 := by decide
/-- R162, R58. -/
theorem test_wrProtoZero :
    protoWords (run (.wrProtoZero 0xFFFF0704) start) = [350, 0x1F01, 0x704, 0x103, 0] := by decide
/-- R163's example. -/
theorem test_rdProtoOne : readOf .rdProtoOne start = some 0x103 := by decide
/-- R164, R58. -/
theorem test_wrProtoOne :
    protoWords (run (.wrProtoOne 0xFFFF0506) start) = [350, 0x1F01, 0x301, 0x506, 0] := by decide
/-- R165's example: T3 is inverted. -/
theorem test_rdProtoFlags : readOf .rdProtoFlags (run (.cmdSelproto 3) start) = some 1 := by decide
/-- RG-4. -/
theorem test_wrProtoFlags :
    protoWords (run (.wrProtoFlags 0xFFFFFFFF) start) = [350, 0x1F01, 0x301, 0x103, 1] := by decide
/-- RG-12 with the parameter `REPEAT_RESET` = 7. -/
theorem test_rdRepeat :
    readOf .rdRepeat (State.resetWith { Config.resetParams with repeatReset := 7 }) = some 7 := by decide
/-- RG-5. -/
theorem test_wrRepeat : readOf .rdRepeat (run (.wrRepeat 70000) start) = some 4464 := by decide
/-- R169's example. -/
theorem test_rdTxValue : readOf .rdTxValue (run (.wrTxValue 0x75740C) start) = some 0x0075740C := by decide
/-- RG-6. -/
theorem test_wrTxValue : (run (.wrTxValue 0xDEADBEEF) start).txValue = 0xDEADBEEF := by decide
/-- RG-7. -/
theorem test_rdTxLen : readOf .rdTxLen (run (.wrTxLen 0x7F) start) = some 0x3F := by decide
/-- R172's example: 64 stores 0. -/
theorem test_wrTxLen : (run (.wrTxLen 64) { start with txLen := 9 }).txLen = 0 := by decide
/-- RG-12 with the parameter `TOL_RESET` = 200. -/
theorem test_rdRxTol :
    readOf .rdRxTol (State.resetWith { Config.resetParams with tolReset := 200 }) = some 200 := by decide
/-- RG-8. -/
theorem test_wrRxTol : readOf .rdRxTol (run (.wrRxTol 0x1FF) start) = some 0xFF := by decide
/-- R175: the last decoded value. -/
theorem test_rdMsgValue : readOf .rdMsgValue published = some 341 := by decide
/-- R177: the last decoded bit length. -/
theorem test_rdMsgBitlen : readOf .rdMsgBitlen published = some 12 := by decide
/-- R179: the ROM index. -/
theorem test_rdMsgProto : readOf .rdMsgProto published = some 1 := by decide
/-- R181: the observed base unit. -/
theorem test_rdMsgDelay : readOf .rdMsgDelay published = some 350 := by decide
/-- RG-10. -/
theorem test_wrMsgValue : run (.wrMsgValue 5) start = start := by decide
/-- R178's example. -/
theorem test_wrMsgBitlen : run (.wrMsgBitlen 5) published = published := by decide
/-- R180. -/
theorem test_wrMsgProto : run (.wrMsgProto 2) published = published := by decide
/-- R182. -/
theorem test_wrMsgDelay : run (.wrMsgDelay 0) published = published := by decide

/-! Commands (95_test_vectors.md 2.3). -/

/-- CM-1. -/
theorem test_cmdNop : run .cmdNop running = running := by decide
/-- CM-2 and CM-8: the configuration returns to its reset values. -/
theorem test_cmdInit :
    run .cmdInit { start with ctrl := ⟨true, true, 3, 0⟩, selClamped := true, ap := Config.vectorT3,
                              repeatCount := 3, txValue := 8, txLen := 9, rxTol := 5 } = start := by decide
/-- CM-16: a running transmission is not touched, and the line stays driven. -/
theorem test_cmdInit_while_running :
    (run .cmdInit running).tx = running.tx ∧ txOe (run .cmdInit running) = true := by decide
/-- CM-7. -/
theorem test_cmdSelproto :
    protoWords (run (.cmdSelproto 3) { start with selClamped := true }) = [0x1C2, 0x0117, 0x0201, 0x0102, 1] ∧
      (run (.cmdSelproto 3) { start with selClamped := true }).selClamped = false := by decide
/-- CM-5 and CM-6: 4 and 256 clamp. -/
theorem test_cmdSelproto_clamps :
    (run (.cmdSelproto 4) { start with ap := Config.vectorT2 }) = { start with selClamped := true } ∧
      (run (.cmdSelproto 256) { start with ap := Config.vectorT2 }) = { start with selClamped := true } := by
  decide
/-- R205's example, with TX_LEN 2, TX_VALUE 2 and REPEAT 1 on T1. -/
theorem test_cmdTxstart :
    (run .cmdTxstart { enabled with txValue := 2, txLen := 2, repeatCount := 1 }).tx = armedEngine := by decide
/-- CM-10 and CM-11: no effect while disabled and while busy. -/
theorem test_cmdTxstart_ignored :
    run .cmdTxstart start = start ∧ run .cmdTxstart running = running := by decide
/-- CM-12. -/
theorem test_cmdConsume : (run .cmdConsume published).msg = ⟨0, 12, 1, 350⟩ := by decide
/-- CM-14. -/
theorem test_cmdReserved :
    run (.cmdReserved 0x80 0) running = running ∧ run (.cmdReserved 0xFF 0xFFFFFF) published = published := by
  decide

/-! Transmitter (95_test_vectors.md 2.4). -/

/-- TX-3: an inverted protocol; the final level is 0, or 1 with `TX_FINAL_FOLLOWS_INVERT`. -/
theorem test_wave_inverted :
    let l : TxLatch := ⟨450, ⟨23, 1⟩, ⟨1, 2⟩, ⟨2, 1⟩, true, 5, 3, 1⟩
    txWave l = [(false, 900), (true, 450), (false, 450), (true, 900), (false, 900), (true, 450),
      (false, 10350), (true, 450)] ∧ finalLevel false l = false ∧ finalLevel true l = true := by decide
/-- TX-5: sync only, twice. -/
theorem test_wave_sync_only :
    txWave { exampleLatch with len := 0, rep := 2 } =
      [(true, 350), (false, 10850), (true, 350), (false, 10850)] := by decide
/-- TX-6: segments of length 0 are skipped. -/
theorem test_wave_zero_factor :
    txWave { exampleLatch with zero := ⟨0, 3⟩, value := 0 } =
      [(false, 1050), (false, 1050), (true, 350), (false, 10850)] := by decide
/-- TX-7: bits 33 and 32 are sent as 0, before bit 31. -/
theorem test_wave_long :
    (txWave { exampleLatch with value := 0xFFFFFFFF, len := 34 }).take 6 =
      [(true, 350), (false, 1050), (true, 350), (false, 1050), (true, 1050), (false, 350)] ∧
    (txWave { exampleLatch with value := 0xFFFFFFFF, len := 34 }).length = 70 := by decide +kernel
/-- TX-4 and TX-9: the empty waveforms. -/
theorem test_wave_empty :
    txWave { exampleLatch with rep := 0 } = [] ∧ txWave { exampleLatch with base := 0 } = [] := by decide
/-- TX-T, cycle 8: the tick that finds the engine armed loads the first segment. -/
theorem test_tick_armed : tickEngine false armedEngine = runningEngine 1050 := by decide
/-- TX-T, cycle 4208: the tick that ends the segment loads the next. -/
theorem test_tick_ends_segment :
    tickEngine false (runningEngine 1) = ⟨.run, ⟨.di, 1, 0⟩, 350, false, exampleLatch⟩ := by decide
/-- TX-T, cycle 56008: the last segment ends at the final level. -/
theorem test_tick_ends_transmission :
    (tickEngine false ⟨.run, ⟨.si, 0, 0⟩, 1, false, exampleLatch⟩).state = .idle ∧
    (tickEngine true ⟨.run, ⟨.si, 0, 0⟩, 1, false, { exampleLatch with inv := true }⟩).level = true := by decide
/-- TX-4: an empty waveform ends at the next tick. -/
theorem test_tick_empty_wave :
    (tickEngine false { armedEngine with latch := { exampleLatch with rep := 0 } }).state = .idle := by decide
/-- R240: the frame after the last data bit's sync part. -/
theorem test_positions :
    succPos { exampleLatch with rep := 2 } ⟨.si, 0, 0⟩ = some ⟨.da, 1, 1⟩ ∧
    succPos { exampleLatch with rep := 2 } ⟨.si, 0, 1⟩ = none ∧
    succPos exampleLatch ⟨.di, 0, 0⟩ = some ⟨.sa, 0, 0⟩ := by decide

/-! Edge step (95_test_vectors.md 2.5). -/

/-- E-2 and E-3: gaps 1000 and 199 apart. -/
theorem test_edge_gap_window :
    capture (edges [5000, 6000]) 1 = ([6000], 1, 1, ⟨0, 0, 0, 0⟩) ∧
    capture (edges [5000, 5199]) 1 = ([5199], 1, 0, ⟨0, 0, 0, 0⟩) := by decide
/-- E-4 and E-5: gaps exactly 200 apart. -/
theorem test_edge_gap_window_boundary :
    capture (edges [5000, 5200]) 1 = ([5200], 1, 1, ⟨0, 0, 0, 0⟩) ∧
    capture (edgeSteps 60 [5000, 5200] { start with par := { start.par with gapMatchInclusive := true } }) 1 =
      ([5200], 1, 0, ⟨0, 0, 0, 0⟩) := by decide
/-- E-8 and E-9: 4300 is no gap, 4301 is. -/
theorem test_edge_gap_threshold :
    capture (edges [4300]) 1 = ([4300], 1, 0, ⟨0, 0, 0, 0⟩) ∧
    capture (edges [4301]) 1 = ([4301], 1, 1, ⟨0, 0, 0, 0⟩) := by decide
/-- E-16: two matching gaps decode the frame between them. -/
theorem test_edge_decodes :
    capture (edges (frame101 ++ [10850])) 1 = ([10850], 1, 0, ⟨5, 3, 1, 350⟩) := by decide +kernel
/-- E-17: 7 edges are too short. -/
theorem test_edge_too_short :
    capture (edges [10850, 1050, 350, 350, 1050, 1050, 350, 10850]) 1 = ([10850], 1, 0, ⟨0, 0, 0, 0⟩) := by
  decide +kernel
/-- E-14: the 68th edge overflows. -/
theorem test_edge_overflow :
    capture (edges (10850 :: List.replicate 67 350)) 1 = ([350], 1, 0, ⟨0, 0, 0, 0⟩) := by decide +kernel
/-- E-12: 67 entries decode to 33 pairs, the first bit lost. -/
theorem test_edge_full_buffer :
    capture (edges (10850 :: ((List.replicate 33 [1050, 350]).flatten ++ [10850]))) 1 =
      ([10850], 1, 0, ⟨0xFFFFFFFF, 33, 1, 350⟩) := by decide +kernel
/-- E-18: the third gap is a first gap again. -/
theorem test_edge_third_gap :
    capture (edges (frame101 ++ frame101 ++ [10850])) 1 = ([10850], 1, 1, ⟨5, 3, 1, 350⟩) := by
  decide +kernel

/-! Trial (95_test_vectors.md 2.6). -/

/-- TR-1 and TR-2. -/
theorem test_trial_base :
    trial false 60 Config.vectorT1 (bufferOf frame101) 8 = .success 5 350 ∧
    trial false 60 Config.vectorT1 (bufferOf frame101) 7 = .tooShort := by decide +kernel
/-- TR-3, TR-4 and TR-7: the edge of the window. -/
theorem test_trial_boundary :
    trial false 60 Config.vectorT1 (bufferOf [10850, 1050, 350, 559, 1050, 1050, 350, 350]) 8 = .success 5 350 ∧
    trial false 60 Config.vectorT1 (bufferOf [10850, 1050, 350, 560, 1050, 1050, 350, 350]) 8 = .noMatch ∧
    trial true 60 Config.vectorT1 (bufferOf [10850, 1050, 350, 560, 1050, 1050, 350, 350]) 8 =
      .success 5 350 := by decide +kernel
/-- TR-5 and TR-6: the lower edge. -/
theorem test_trial_lower_boundary :
    trial false 60 Config.vectorT1 (bufferOf [10850, 1050, 350, 141, 1050, 1050, 350, 350]) 8 = .success 5 350 ∧
    trial false 60 Config.vectorT1 (bufferOf [10850, 1050, 350, 140, 1050, 1050, 350, 350]) 8 = .noMatch := by
  decide +kernel
/-- TR-9 and TR-10: a tolerance of 0. -/
theorem test_trial_zero_tolerance :
    trial false 0 Config.vectorT1 (bufferOf frame101) 8 = .noMatch ∧
    trial true 0 Config.vectorT1 (bufferOf frame101) 8 = .success 5 350 := by decide +kernel
/-- TR-11 with `tryAll`: inverted and odd, only T3 matches, and the bit length counts one bit more than the
pairs decoded. -/
theorem test_tryAll_inverted_odd :
    tryAll Config.resetParams 60 (bufferOf [10350, 450, 450, 900, 900, 450, 450, 900, 999]) 9 =
      some ⟨2, 4, 3, 450⟩ := by decide +kernel
/-- TR-17: a pair that matches both shapes is 0. -/
theorem test_trial_overlap :
    trial false 60 ⟨100, ⟨1, 50⟩, ⟨2, 2⟩, ⟨2, 3⟩, false⟩ (bufferOf [5000, 200, 250, 200, 300, 200, 200, 200]) 8 =
      .success 2 100 := by decide +kernel
/-- TR-18: with 255 percent every pair matches zero first. -/
theorem test_trial_wide :
    trial false 255 Config.vectorT1 (bufferOf frame101) 8 = .success 0 350 := by decide +kernel

/-! Line model and host software (R297, R250, R251, R122). -/

/-- LB-8: the idle line merges with the first active-low segment; the final level ends the last one. -/
theorem test_line_durations :
    let l : TxLatch := ⟨450, ⟨23, 1⟩, ⟨1, 2⟩, ⟨2, 1⟩, true, 0x2D, 6, 1⟩
    lineDurations false 100000 (txWave l ++ [(finalLevel false l, 1)]) =
      [100900, 450, 450, 900, 900, 450, 900, 450, 450, 900, 900, 450, 10350, 450] := by decide +kernel
/-- L1-P8 and L1-P2. -/
theorem test_encode_tri_state :
    encodeTriState [.zero, .float, .one] = (7, 6) ∧
    encodeTriState [.float, .one, .float, .float, .float, .one, .float, .zero, .zero, .zero, .one, .zero] =
      (0x75740C, 24) := by decide
/-- L1-P8. -/
theorem test_encode_binary :
    encodeBinary ['1', '0'] = (2, 2) ∧ encodeBinary ['1', 'a', '0'] = (6, 3) := by decide
/-- P3: the transactions of transmitTriState("F1FFF1F00010"). -/
theorem test_transmit_tri_state :
    opTransmitTriState ['F', '1', 'F', 'F', 'F', '1', 'F', '0', '0', '0', '1', '0'] =
      some [.transact (.wrTxValue 0x75740C), .transact (.wrTxLen 24), .transact .cmdTxstart, .waitTx] := by decide
/-- R133: transmitBinary at 32 symbols; I16: 33 symbols are refused. -/
theorem test_transmit_binary :
    opTransmitBinary (List.replicate 32 '1') =
      some [.transact (.wrTxValue 0xFFFFFFFF), .transact (.wrTxLen 32), .transact .cmdTxstart, .waitTx] ∧
    opTransmitBinary (List.replicate 33 '0') = none := by decide +kernel
/-- I16: 17 tri-state symbols, and a symbol outside the alphabet, are refused. -/
theorem test_transmit_refused :
    opTransmitTriState (List.replicate 17 'F') = none ∧ opTransmitTriState ['0', 'f'] = none := by decide +kernel
/-- R135: after InvalidParameter nothing is transmitted. -/
theorem test_switch_failed : opSwitch none = some [] := by decide
/-- R124: WAIT_TX reads on while the engine is busy and ends at the first read after. -/
theorem test_wait_tx :
    waitLeft running = [.waitTx] ∧ waitLeft start = [] := by decide
/-- R122's examples. -/
theorem test_assembler_constructors :
    shapeValue 1 31 = 0x1F01 ∧ ctrlValue true true 3 4 = 0x00040303 := by decide
/-- R84: byte 1 of a word is its bits 15:8. -/
theorem test_byte_lanes : byteLane 0x12345678 0 = 0x78 ∧ byteLane 0x12345678 1 = 0x56 := by decide

/-! Cycles. -/

/-- EN-3 as the first instruction after reset. -/
theorem test_step_runs_fetched_word : (after (step (start.withFetchWord 40 0x1000000501))).ctrl = ⟨true, false, 5, 0⟩ := by
  decide
/-- R34: a read and a write of one register in one cycle; the read sees the old value. -/
theorem test_step_read_before_write :
    (after (step bothStrobes)).busRdata =
      some 7 ∧
    (after (step bothStrobes)).txLen =
      24 := by decide
/-- R92: a TXSTART in a cycle with a tick arms the engine; that tick does not begin the waveform. -/
theorem test_step_txstart_with_tick :
    (after (step (given (writeCycle 2 0x03000000 true false) enabled))).tx.state = .armed := by decide
/-- R370: a TXSTART in the cycle a transmission ends is ignored. -/
theorem test_step_txstart_at_the_end :
    (after (step (given (writeCycle 2 0x03000000 true false)
      { enabled with tx := ⟨.run, ⟨.si, 0, 0⟩, 1, false, exampleLatch⟩ }))).tx.state = .idle := by decide
/-- CM-15: a CONSUME in the cycle of a publish loses. -/
theorem test_step_publish_beats_consume :
    (after (step (given (writeCycle 2 0x04000000 false true) (waiting frame101 10850 0)))).msg =
      ⟨5, 3, 1, 350⟩ := by decide +kernel
/-- R281, R283: an accepted transition, its duration counting the tick of its own cycle. -/
theorem test_step_accepts_transition :
    (after (step (given (idleCycle true true false) (changing true 0)))).rx.pendDur = 42 ∧
    (after (step (given (idleCycle true true false) (changing true 0)))).rx.since = 0 := by decide
/-- R282: with RX_EN = 0 the transition is discarded and the count goes on. -/
theorem test_step_discards_transition :
    (after (step (given (idleCycle true true false) (changing false 0)))).rx.pend = false ∧
    (after (step (given (idleCycle true true false) (changing false 0)))).rx.since = 42 := by decide
/-- R283, E-22: the count saturates. -/
theorem test_since_saturates :
    sinceNow true { start.rx with since := 0xFFFFFFFF } = 0xFFFFFFFF := by decide
/-- R287: a transition too close to the last is refused. -/
theorem test_step_refuses_close_transition : runs (step (given (idleCycle false true false) (changing true 1))) = false := by
  decide
/-- R31: nothing else takes effect in a reset cycle. -/
theorem test_step_reset :
    after (step (given resetCycle { waiting frame101 10850 0 with tx := runningEngine 1 })) = start := by
  decide +kernel

/-! Witnesses: for every obligation with hypotheses, states and operands that meet them. The name of the
obligation is in the theorem's. -/

theorem step_next_of_runs {s : State} (h : runs (step s) = true) : step s = .next (after (step s)) :=
  next_of_runs h

theorem witness_DecodeOfEncodeIsIdentity :
    (Instr.cmdReserved 5 0).WellFormed ∧ (Instr.cmdReserved 0xFF 0xFFFFFF).WellFormed ∧
      Instr.rdMsgDelay.WellFormed := by decide

theorem witness_ReadsHaveNoSideEffect : Instr.rdCtrl.isRead = true ∧ Instr.rdMsgDelay.isRead = true := by decide

theorem witness_WritesOtherThanTxstartAreIdempotent :
    (Instr.cmdConsume).isRead = false ∧ Instr.cmdConsume ≠ .cmdTxstart ∧ (Instr.wrCtrl 1).isRead = false := by
  decide

/-- The first and the last reserved opcode. -/
theorem witness_NopAndReservedHaveNoEffect : 5 ≤ (5#8).toNat ∧ 5 ≤ (255#8).toNat := by decide

/-- Both clauses of SelprotoLoadsOrClamps at their boundaries: 1 and 3 are in range, 0, 4 and 2^24 - 1 out. -/
theorem witness_SelprotoLoadsOrClamps :
    (start.par.table.first :: start.par.table.rest)[(1#24).toNat - 1]? = some Config.vectorT1 ∧
    (start.par.table.first :: start.par.table.rest)[(3#24).toNat - 1]? = some Config.vectorT3 ∧
    1 ≤ (1#24).toNat ∧ (0#24).toNat = 0 ∧ start.par.table.rest.length + 1 < (4#24).toNat ∧
    start.par.table.rest.length + 1 < (0xFFFFFF#24).toNat := by decide

/-- The three clauses of TxstartLatchesOrIsIgnored. -/
theorem witness_TxstartLatchesOrIsIgnored :
    (enabled.tx.state = .idle ∧ enabled.ctrl.txEn = true) ∧ running.tx.state ≠ .idle ∧
    (start.tx.state = .idle ∧ start.ctrl.txEn = false) := by decide

theorem witness_HostWritesOnlyWhatItOwns :
    (∃ t, exec .cmdConsume published = .next t ∧ t.msg.value ≠ published.msg.value) ∧
    (∃ t, exec .cmdTxstart enabled = .next t ∧ t.tx ≠ enabled.tx) :=
  ⟨⟨_, rfl, by decide⟩, ⟨_, rfl, by decide⟩⟩

/-- Both clauses of EnginesLeaveConfigurationAlone: a cycle without a write, and one that writes CTRL while the
engine runs. -/
theorem witness_EnginesLeaveConfigurationAlone :
    (∃ s t, step s = .next t ∧ (nextCycle s).rst = false ∧ (nextCycle s).busWe = false ∧
      (nextCycle s).usTick = true) ∧
    (∃ s t, step s = .next t ∧ (nextCycle s).rst = false ∧ (nextCycle s).busWe = true ∧ t.ctrl ≠ s.ctrl) :=
  ⟨⟨given (idleCycle true false true) running, _, step_next_of_runs (by decide), by decide⟩,
   ⟨given (writeCycle 0 0 true true) running, _, step_next_of_runs (by decide), by decide⟩⟩

theorem witness_SelClampedChangesOnlyBySelection :
    ∃ s t, step s = .next t ∧ (nextCycle s).rst = false ∧ NoSelection (nextCycle s) ∧ (nextCycle s).busWe = true :=
  ⟨given (writeCycle 2 0x04000000 false false) published, _, step_next_of_runs (by decide), by decide,
   fun _ => ⟨by decide, fun _ h => Instr.noConfusion h⟩, by decide⟩

/-- With nothing pending, a cycle with a CONSUME and one with no transaction; and a CONSUME in a cycle in which the
pending edge step waits. -/
theorem witness_MessageChangesOnlyByPublishOrConsume :
    (∃ s t, step s = .next t ∧ (nextCycle s).rst = false ∧
      (s.rx.pend = true → (nextCycle s).edgeGo = false ∧ 0 < s.rx.guard) ∧ t.msg.value ≠ s.msg.value) ∧
    (∃ s t, step s = .next t ∧ (nextCycle s).rst = false ∧
      (s.rx.pend = true → (nextCycle s).edgeGo = false ∧ 0 < s.rx.guard) ∧ t.msg.value = s.msg.value) ∧
    (∃ s t, step s = .next t ∧ (nextCycle s).rst = false ∧ s.rx.pend = true ∧ (nextCycle s).edgeGo = false ∧
      0 < s.rx.guard ∧ t.msg.value ≠ s.msg.value) :=
  ⟨⟨given (writeCycle 2 0x04000000 false true) published, _, step_next_of_runs (by decide), by decide⟩,
   ⟨published, _, step_next_of_runs (by decide), by decide⟩,
   ⟨given (writeCycle 2 0x04000000 false false) { waiting [] 350 1 with msg := published.msg }, _,
    step_next_of_runs (by decide), by decide⟩⟩

theorem witness_ParametersNeverChange : ∃ s t, step s = .next t ∧ (nextCycle s).rst = true :=
  ⟨given resetCycle running, _, step_next_of_runs (by decide), by decide⟩

/-- The five clauses of StepRunsDecodedTransaction: a read, a write, both, neither, and a placed word. -/
theorem witness_StepRunsDecodedTransaction :
    (paramsWf start.par = true ∧ tooClose (beginCycle start) = false) ∧
    (∃ u, (nextCycle (given (readCycle 15) start)).busRe = true ∧
      (nextCycle (given (readCycle 15) start)).busWe = false ∧
      exec (decode (cycleReadWord (nextCycle (given (readCycle 15) start))))
        (beginCycle (given (readCycle 15) start)) = .next u) ∧
    (∃ u, (nextCycle (given (writeCycle 2 0x03000000 true false) enabled)).busWe = true ∧
      (nextCycle (given (writeCycle 2 0x03000000 true false) enabled)).busRe = false ∧
      exec (decode (cycleWriteWord (nextCycle (given (writeCycle 2 0x03000000 true false) enabled))))
        (beginCycle (given (writeCycle 2 0x03000000 true false) enabled)) = .next u) ∧
    (∃ r u, (nextCycle bothStrobes).rst = false ∧ (nextCycle bothStrobes).busRe = true ∧
      (nextCycle bothStrobes).busWe = true ∧
      exec (decode (cycleReadWord (nextCycle bothStrobes))) (beginCycle bothStrobes) = .next r ∧
      exec (decode (cycleWriteWord (nextCycle bothStrobes))) r = .next u) ∧
    ((nextCycle start).rst = false ∧ (nextCycle start).busRe = false ∧ (nextCycle start).busWe = false) ∧
    (∃ i u, decodeTableWord 40 0x1000000501 = some i ∧ exec i (beginCycle start) = .next u) :=
  ⟨by decide, ⟨_, by decide, by decide, next_of_runs (by decide)⟩,
   ⟨_, by decide, by decide, next_of_runs (by decide)⟩,
   ⟨_, _, by decide, by decide, by decide, next_of_runs (by decide), next_of_runs (by decide)⟩, by decide,
   ⟨.wrCtrl 0x501, _, by decide, next_of_runs (by decide)⟩⟩

theorem witness_ReadReturnsStartOfCycleValue :
    ∃ s t, step s = .next t ∧ (nextCycle s).rst = false ∧ (nextCycle s).busRe = true :=
  ⟨given (readCycle 0) enabled, _, step_next_of_runs (by decide), by decide⟩

/-- The clauses of StepCompletesUnlessInputsAreRefused: a malformed table, a synchroniser of no flops, a transition
one cycle too early, the same transition at the spacing, and a reset cycle. -/
theorem witness_StepCompletesUnlessInputsAreRefused :
    tableWf malformed.par.table = false ∧
    { start.par with syncStages := 0 }.syncStages = 0 ∧
    (tableWf (changing true 1).par.table = true ∧ 1 ≤ (changing true 1).par.syncStages ∧
      (nextCycle (changing true 1)).rst = false ∧ tooClose (changing true 1) = true) ∧
    (tableWf (changing true 0).par.table = true ∧ 1 ≤ (changing true 0).par.syncStages ∧
      tooClose (changing true 0) = false ∧ tooClose (changing false 1) = false) ∧
    (tableWf start.par.table = true ∧ 1 ≤ start.par.syncStages ∧
      (nextCycle (given resetCycle start)).rst = true) := by decide

theorem witness_MalformedTableIsRefused :
    tableWf malformed.par.table = false ∧ tableWf start.par.table = true ∧
    tableWf ⟨Config.vectorT1, List.replicate 255 Config.vectorT2⟩ = false ∧
    tableWf ⟨Config.vectorT1, List.replicate 254 Config.vectorT2⟩ = true := by decide +kernel

theorem witness_ResetCycleOverridesEverything :
    paramsWf running.par = true ∧ (nextCycle (given resetCycle running)).rst = true := by decide

theorem witness_InvariantHoldsAfterReset : paramsWf Config.resetParams = true := by decide

/-- The invariant holds of a running block that has a message, a counted gap and a pending transition, and it
takes a step. -/
def busyBlock : State :=
  given (idleCycle true true true) { waiting frame101 10850 0 with tx := runningEngine 1, msg := ⟨0, 33, 3, 16⟩ }

theorem witness_StepKeepsInvariant : busyBlock.Inv ∧ ∃ t, step busyBlock = .next t :=
  ⟨⟨by decide, fun _ => ⟨⟨by decide, fun _ => by decide⟩, by decide, by decide, by decide⟩,
    ⟨by decide, by decide +kernel, by decide +kernel, fun _ => by decide +kernel, by decide⟩,
    .inr (by decide)⟩, _, step_next_of_runs (by decide +kernel)⟩

/-- The last frame and the data positions 0, 31, 32 and 33 of a word of 34 bits, and a frame of the sync pair alone. -/
theorem witness_WaveformCountAndDuration :
    let l : TxLatch := { exampleLatch with value := 0x80000001, len := 34, rep := 2 }
    1 < l.rep.toNat ∧ 0 < l.len.toNat ∧ 33 < l.len.toNat ∧
    (sentShape l 0 = ⟨3, 1⟩ ∧ sentShape l 31 = ⟨3, 1⟩ ∧ sentShape l 32 = ⟨1, 3⟩ ∧ sentShape l 33 = ⟨1, 3⟩) ∧
    (0 < { exampleLatch with len := 0 }.rep.toNat ∧
      (txSegments { exampleLatch with len := 0 })[0]? = some (true, 350)) := by decide

/-- At the number of positions and beyond it. -/
theorem witness_PositionsWalkTheWaveform :
    positionCount exampleLatch = 6 ∧ positionCount exampleLatch ≤ 6 ∧ positionCount exampleLatch ≤ 7 ∧
    walk exampleLatch 7 (firstPos exampleLatch) = txWave exampleLatch := by decide

theorem witness_EngineEmitsTheWaveform : armedEngine.state = .armed ∧
    levelAt (txWave armedEngine.latch) 0 = some true ∧ levelAt (txWave armedEngine.latch) 14000 = none := by decide

theorem witness_NothingStopsATransmission :
    ∃ s t, step s = .next t ∧ (nextCycle s).rst = false ∧ s.tx.state ≠ .idle ∧
      decode (cycleWriteWord (nextCycle s)) = .cmdInit ∧ (nextCycle s).busWe = true :=
  ⟨given (writeCycle 2 0x01000000 true false) running, _, step_next_of_runs (by decide), by decide⟩

/-- The clauses of TxstartIsSeenFromTheNextCycle: an accepted TXSTART, one with TX_EN = 0, another write, and no
write. -/
theorem witness_TxstartIsSeenFromTheNextCycle :
    (∃ s t, step s = .next t ∧ (nextCycle s).rst = false ∧ s.tx.state = .idle ∧ (nextCycle s).busWe = true ∧
      decode (cycleWriteWord (nextCycle s)) = .cmdTxstart ∧ s.ctrl.txEn = true ∧ (nextCycle s).usTick = true) ∧
    (∃ s t, step s = .next t ∧ (nextCycle s).rst = false ∧ s.tx.state = .idle ∧ (nextCycle s).busWe = true ∧
      decode (cycleWriteWord (nextCycle s)) = .cmdTxstart ∧ ¬ s.ctrl.txEn = true) ∧
    (∃ s t, step s = .next t ∧ (nextCycle s).rst = false ∧ s.tx.state = .idle ∧ (nextCycle s).busWe = true ∧
      ¬ decode (cycleWriteWord (nextCycle s)) = .cmdTxstart ∧ s.ctrl.txEn = true) ∧
    (∃ s t, step s = .next t ∧ (nextCycle s).rst = false ∧ s.tx.state = .idle ∧ (nextCycle s).busWe = false) :=
  ⟨⟨given (writeCycle 2 0x03000000 true false) enabled, _, step_next_of_runs (by decide), by decide⟩,
   ⟨given (writeCycle 2 0x03000000 true false) start, _, step_next_of_runs (by decide), by decide⟩,
   ⟨given (writeCycle 9 0x03000000 true false) enabled, _, step_next_of_runs (by decide), by decide⟩,
   ⟨given (idleCycle true false false) enabled, _, step_next_of_runs (by decide), by decide⟩⟩

theorem witness_OutputPortsFollowState :
    running.tx.state ≠ .idle ∧ ∃ t, exec (.wrCtrl 0) running = .next t := ⟨by decide, _, rfl⟩

/-- An accepted transition, and a cycle without one, both with a tick, the second at the saturated count. -/
theorem witness_FrontEndFollowsTheLine :
    (∃ s t, step s = .next t ∧ (nextCycle s).rst = false ∧ (nextCycle s).usTick = true ∧
      (s.rx.sync.getLastD false ≠ s.rx.prev ∧ s.ctrl.rxEn = true)) ∧
    (∃ s t, step s = .next t ∧ (nextCycle s).rst = false ∧ (nextCycle s).usTick = true ∧
      s.rx.since = 0xFFFFFFFF ∧ s.rx.pend = false ∧
      ¬ (s.rx.sync.getLastD false ≠ s.rx.prev ∧ s.ctrl.rxEn = true)) :=
  ⟨⟨given (idleCycle true true false) (changing true 0), _, step_next_of_runs (by decide), by decide⟩,
   ⟨given (idleCycle true true false) { start with rx := { start.rx with since := 0xFFFFFFFF } }, _,
    step_next_of_runs (by decide), by decide⟩⟩

theorem witness_DisabledTransitionIsDiscarded :
    ∃ s t, step s = .next t ∧ (nextCycle s).rst = false ∧ s.ctrl.rxEn = false ∧ s.rx.pend = false ∧
      transition s.rx = true :=
  ⟨given (idleCycle true true true) (changing false 1), _, step_next_of_runs (by decide), by decide⟩

/-- The clauses of PendingTransitionRunsItsEdgeStep: due by the schedule in a cycle with a CONSUME where nothing is
published, due by the deadline in a cycle with another write, and waiting with one cycle left, with and
without a CONSUME. -/
theorem witness_PendingTransitionRunsItsEdgeStep :
    (∃ s t, step s = .next t ∧ (nextCycle s).rst = false ∧ s.rx.pend = true ∧ (nextCycle s).edgeGo = true ∧
      s.msg.value = 341 ∧ t.msg.value = 0) ∧
    (∃ s t, step s = .next t ∧ (nextCycle s).rst = false ∧ s.rx.pend = true ∧ s.rx.guard = 0 ∧
      (nextCycle s).edgeGo = false ∧ s.ctrl.rxEn = true ∧ t.ctrl.rxEn = false) ∧
    (∃ s t, step s = .next t ∧ (nextCycle s).rst = false ∧ s.rx.pend = true ∧ (nextCycle s).edgeGo = false ∧
      0 < s.rx.guard ∧ t.msg = s.msg) ∧
    (∃ s t, step s = .next t ∧ (nextCycle s).rst = false ∧ s.rx.pend = true ∧ (nextCycle s).edgeGo = false ∧
      0 < s.rx.guard ∧ t.msg ≠ s.msg) :=
  ⟨⟨given (writeCycle 2 0x04000000 false true) { waiting [] 350 1 with msg := published.msg }, _,
    step_next_of_runs (by decide), by decide⟩,
   ⟨given (writeCycle 0 0 false false) (waiting [] 350 0), _, step_next_of_runs (by decide), by decide⟩,
   ⟨given (idleCycle false false false) (waiting [] 350 1), _, step_next_of_runs (by decide), by decide⟩,
   ⟨given (writeCycle 2 0x04000000 false false) { waiting [] 350 1 with msg := published.msg }, _,
    step_next_of_runs (by decide), by decide⟩⟩

theorem witness_PublishBeatsConsumeInOneCycle :
    ∃ s t m, step s = .next t ∧ (nextCycle s).rst = false ∧ (nextCycle s).busWe = true ∧
      decode (cycleWriteWord (nextCycle s)) = .cmdConsume ∧ s.rx.pend = true ∧ (nextCycle s).edgeGo = true ∧
      4300 < s.rx.pendDur.toNat ∧ s.rx.repeatConfirmCount = 1 ∧
      GapsMatch s.par s.rx.pendDur (capRead s.rx.buffer 0) ∧
      tryAll s.par s.rxTol.toNat s.rx.buffer s.rx.changeCount = some m :=
  ⟨given (writeCycle 2 0x04000000 false true) (waiting frame101 10850 0), _, ⟨5, 3, 1, 350⟩,
   step_next_of_runs (by decide +kernel), by unfold GapsMatch; decide +kernel⟩

/-- 4300 with room for one more entry. -/
theorem witness_ShortDurationIsStored :
    (4300#32).toNat ≤ 4300 ∧ (edges (10850 :: List.replicate 65 350)).rx.changeCount = 66 := by decide +kernel

/-- The clauses of GapStartsFrameAndMayRunTrials: a first gap of 4301, a gap 200 away, a gap 199 away. -/
theorem witness_GapStartsFrameAndMayRunTrials :
    (4300 < (4301#32).toNat ∧ start.rx.repeatConfirmCount = 0) ∧
    ((edges [5000]).rx.repeatConfirmCount = 1 ∧
      ¬ GapsMatch (edges [5000]).par 5200 (capRead (edges [5000]).rx.buffer 0) ∧
      GapsMatch (edges [5000]).par 5199 (capRead (edges [5000]).rx.buffer 0)) := by
  unfold GapsMatch; decide

theorem witness_OverflowDropsTheFrame :
    (4300#32).toNat ≤ 4300 ∧ (edges (10850 :: List.replicate 66 350)).rx.changeCount = 67 := by decide +kernel

theorem witness_NoGapNeverPublishes :
    (∀ d ∈ List.replicate 70 (4300#32), d.toNat ≤ 4300) ∧
      (edges (10850 :: List.replicate 66 350)).rx.changeCount ≤ 67 :=
  ⟨fun d hd => by rw [List.eq_of_mem_replicate hd]; decide, by decide +kernel⟩

/-- No duration between the gaps, and 66 of them. -/
theorem witness_TwoMatchingGapsDecodeTheFrameBetween :
    start.rx.repeatConfirmCount = 0 ∧ 4300 < (5000#32).toNat ∧ 4300 < (5199#32).toNat ∧
    GapsMatch start.par 5199 5000 ∧
    (∀ x ∈ List.replicate 66 (4300#32), x.toNat ≤ 4300) ∧ (List.replicate 66 (4300#32)).length ≤ 66 :=
  ⟨by decide, by decide, by decide, by unfold GapsMatch; decide,
   fun x hx => by rw [List.eq_of_mem_replicate hx]; decide, by simp⟩

/-- Seven edges. -/
theorem witness_ShortFramePublishesNothing : (7 : Nat) ≤ 7 ∧ (0 : Nat) ≤ 7 := by decide

/-- A success over 8 entries and over 67. -/
theorem witness_TrialSucceedsExactlyWhenEveryPairMatches :
    trial false 60 Config.vectorT1 (bufferOf frame101) 8 = .success 5 350 ∧
    trial false 60 Config.vectorT1 (bufferOf (10850 :: (List.replicate 33 [1050, 350]).flatten)) 67 =
      .success 0xFFFFFFFF 350 := by decide +kernel

/-- The trials publish with the third entry after two failures. -/
theorem witness_FirstSuccessIsPublished :
    tryAll Config.resetParams 60 (bufferOf [10350, 450, 450, 900, 900, 450, 450, 900, 999]) 9 =
      some ⟨2, 4, 3, 450⟩ ∧
    trial false 60 Config.vectorT1 (bufferOf [10350, 450, 450, 900, 900, 450, 450, 900, 999]) 9 = .noMatch := by
  decide +kernel

/-- Frames of 8 and of 67 edges, and an inverted protocol with 9. -/
theorem witness_PublishedLengthComesFromEdgeCount :
    tryAll Config.resetParams 60 (bufferOf frame101) 8 = some ⟨5, 3, 1, 350⟩ ∧
    tryAll Config.resetParams 60 (bufferOf (10850 :: (List.replicate 33 [1050, 350]).flatten)) 67 =
      some ⟨0xFFFFFFFF, 33, 1, 350⟩ ∧
    (Config.vectorT3.inverted = true ∧ 9 % 2 = 1 ∧ 8 ≤ 9 ∧ 9 ≤ 67) := by decide +kernel

/-- `baseUnit * PCT` is 99 and 0. -/
theorem witness_ZeroToleranceMatchesNothing :
    Config.resetParams.matchInclusive = false ∧
    (∀ p ∈ Config.resetParams.table.first :: Config.resetParams.table.rest,
      (capRead (bufferOf frame101) 0).toNat / max p.sync.high.toNat p.sync.low.toNat * 0 / 100 = 0) ∧
    99 / max 1 1 * 1 / 100 = 0 := by decide +kernel

theorem witness_ReceiverIgnoresActiveProtocol :
    ∃ s s' : State, s.par = s'.par ∧ s.rx = s'.rx ∧ s.msg = s'.msg ∧ s.ap ≠ s'.ap :=
  ⟨published, { published with ap := Config.vectorT3 }, rfl, rfl, rfl, by decide⟩

/-- The round trip's premises at 3 bits of 5 on T1, and on an inverted protocol that stands first in its table. -/
theorem witness_CleanFrameRoundTrip :
    (tableWf Config.resetParams.table = true ∧
      (Config.resetParams.table.first :: Config.resetParams.table.rest)[0]? = some Config.vectorT1 ∧
      (bufferOf (cleanFrame Config.vectorT1 5 3)).toList.take 8 = cleanFrame Config.vectorT1 5 3 ∧
      cleanFrame Config.vectorT1 5 3 = frame101 ∧
      Config.vectorT1.sync.high.toNat ≤ Config.vectorT1.sync.low.toNat ∧
      1 ≤ Config.vectorT1.base.toNat * 60 / 100 ∧ ShapesApart false Config.vectorT1 210) ∧
    (tableWf ⟨Config.vectorT3, []⟩ = true ∧
      (bufferOf (cleanFrame Config.vectorT3 5 32)).toList.take 66 = cleanFrame Config.vectorT3 5 32 ∧
      Config.vectorT3.sync.low.toNat ≤ Config.vectorT3.sync.high.toNat ∧
      1 ≤ Config.vectorT3.base.toNat * 60 / 100 ∧ ShapesApart false Config.vectorT3 270) := by
  unfold ShapesApart; decide +kernel

/-- The premise about lower-numbered protocols with a protocol that is not the first: T2 after T1. -/
theorem witness_CleanFrameRoundTrip_later_protocol :
    ∀ j q, j < 1 → (Config.resetParams.table.first :: Config.resetParams.table.rest)[j]? = some q →
      ∀ a u, trial Config.resetParams.matchInclusive 60 q (bufferOf (cleanFrame Config.vectorT2 5 3)) 8 ≠ .success a u := by
  intro j q hj hq a u
  obtain rfl : j = 0 := by omega
  obtain rfl : Config.vectorT1 = q := by simpa [Config.resetParams] using hq
  rw [show trial Config.resetParams.matchInclusive 60 Config.vectorT1
    (bufferOf (cleanFrame Config.vectorT2 5 3)) 8 = .noMatch by decide +kernel]
  exact TrialResult.noConfusion

end Sys2Proof.Tests
end

section
/-! PROOFS. The scope of the block (00_scope.md R11): which protocol tables are well formed, and what a step
of a block with any other table answers. -/

namespace Sys2Proof.Machine

theorem shapeWf_iff (h : Shape) : shapeWf h = true ↔ 1 ≤ h.high.toNat ∧ 1 ≤ h.low.toNat := by
  simp [shapeWf]

/-- The upper bounds of R11 are the widths of the fields, so the check on the lower bounds gives both. -/
theorem protocolWf_iff (p : Protocol) : protocolWf p = true ↔
    (1 ≤ p.base.toNat ∧ p.base.toNat ≤ 65535) ∧
    ∀ f ∈ [p.sync.high, p.sync.low, p.zero.high, p.zero.low, p.one.high, p.one.low],
      1 ≤ f.toNat ∧ f.toNat ≤ 255 := by
  have base_le : p.base.toNat ≤ 65535 := Nat.le_of_lt_succ p.base.isLt
  have factor_le (f : BitVec 8) : f.toNat ≤ 255 := Nat.le_of_lt_succ f.isLt
  simp only [protocolWf, Bool.and_eq_true, decide_eq_true_eq, shapeWf_iff, List.forall_mem_cons,
    List.not_mem_nil, false_imp_iff, implies_true, base_le, factor_le, and_true, and_assoc]

/-- A table has a first entry, so `N_PROTO` ≥ 1 needs no check (log 5). -/
theorem tableWf_iff (t : ProtoTable) : tableWf t = true ↔
    1 ≤ nProto t ∧ nProto t ≤ 255 ∧ ∀ p ∈ romEntries t, protocolWf p = true := by
  simp only [tableWf, Bool.and_eq_true, decide_eq_true_eq, List.all_eq_true, nProto_pos, true_and]

theorem paramsWf_of_tableWf_false {p : Params} (h : tableWf p.table = false) : paramsWf p = false := by
  simp [paramsWf, h]

/-- Parameters that are not admitted stop a cycle before its inputs, reset included, are looked at. -/
theorem step_of_paramsWf_false {s : State} (h : paramsWf s.par = false) :
    step s = .refused .malformedParams := by
  simp [step, runCycle, h]

/-- Settles O31: R11's bounds entry by entry, and the refusal of parameters that are not admitted. -/
theorem malformedTableIsRefused : Obligations.MalformedTableIsRefused := by
  unfold Obligations.MalformedTableIsRefused
  refine ⟨fun t => ?_, fun s h => step_of_paramsWf_false (paramsWf_of_tableWf_false h)⟩
  simp only [tableWf_iff, protocolWf_iff, romEntries]

end Sys2Proof.Machine
end

section
/-! PROOFS. The state of the block (10_state.md): the values after reset (R69), and the output ports (R35 to
R39, R242). -/

namespace Sys2Proof.Machine

@[simp] theorem txBusy_iff (s : State) : txBusy s = true ↔ s.tx.state ≠ .idle := by simp [txBusy]

theorem txOe_iff (s : State) : txOe s = true ↔ s.ctrl.txEn = true ∨ s.tx.state ≠ .idle := by
  simp [txOe]

theorem exec_wrCtrl (d : Word) (s : State) :
    exec (.wrCtrl d) s = .next { s with ctrl := ctrlOf d } := rfl

/-- The transmit engine is no part of a CTRL write, so it stays busy and holds `tx_oe` by itself, whatever
bit 0 of `d` does to TX_EN (R242). -/
theorem txOe_wrCtrl_of_busy (d : Word) {s : State} (busy : s.tx.state ≠ .idle) :
    txOe { s with ctrl := ctrlOf d } = true :=
  (txOe_iff _).2 (.inr busy)

theorem hasResetValues_resetWith (p : Params) : HasResetValues p (State.resetWith p) := by
  simp [HasResetValues, State.resetWith, TxEngine.reset, RxEngine.reset]

/-- The outputs of R401 need no more of a state than the values R69 gives it. -/
theorem outputs_of_hasResetValues {p : Params} {t : State} (h : HasResetValues p t) :
    txOut t = false ∧ txOe t = false ∧ txLinePort t = 0 ∧ rxLinePort t = 0 := by
  obtain ⟨ctrl, -, -, -, -, -, -, -, idle, -, level, -⟩ := h
  simp [txOut, txOe, txBusy, txLinePort, rxLinePort, ctrl, idle, level]

/-- Settles O42: each port is read off the state, and a CTRL write leaves the engine busy. -/
theorem outputPortsFollowState : Obligations.OutputPortsFollowState := by
  unfold Obligations.OutputPortsFollowState
  refine ⟨fun s => ⟨rfl, txOe_iff s, rfl, rfl⟩, fun d s busy => ?_⟩
  exact ⟨_, exec_wrCtrl d s, txOe_wrCtrl_of_busy d busy, rfl⟩

/-- Settles O32: the reset state has R69's values, and these determine the outputs. -/
theorem resetGivesTheSpecifiedValues : Obligations.ResetGivesTheSpecifiedValues := by
  unfold Obligations.ResetGivesTheSpecifiedValues
  exact fun p => ⟨hasResetValues_resetWith p, outputs_of_hasResetValues (hasResetValues_resetWith p)⟩

end Sys2Proof.Machine
end

section
/-! PROOFS. The encoding (30_encoding.md): which words match a row of the opcode map (R115), and the row a word
matches first against the instruction it decodes to (R116). -/

namespace Sys2Proof.Machine

theorem txnWord_inj {w v : Bool} {a b : BitVec 4} {d e : Word} :
    txnWord w a d = txnWord v b e ↔ w = v ∧ a = b ∧ d = e := by
  refine ⟨fun h => ⟨?_, ?_, ?_⟩, by rintro ⟨rfl, rfl, rfl⟩; rfl⟩
  · simpa using congrArg txnW h
  · simpa using congrArg txnA h
  · simpa using congrArg txnD h

/-- A mask acts on a transaction word field by field. -/
theorem txnWord_and (w v : Bool) (a b : BitVec 4) (d e : Word) :
    txnWord w a d &&& txnWord v b e = txnWord (w && v) (a &&& b) (d &&& e) := by
  refine BitVec.and_append.trans ?_
  rw [BitVec.and_append, BitVec.ofBool_and_ofBool]
  rfl

/-- The mask of a row selected by `W` and `A` clears `D`. -/
theorem txnWord_and_addressMask (w : Bool) (a : BitVec 4) (d : Word) :
    txnWord w a d &&& 0x1F00000000#37 = txnWord w a 0 := by
  have keepA : a &&& 15#4 = a := BitVec.and_allOnes
  have clearD : d &&& 0 = 0 := BitVec.and_zero
  rw [show 0x1F00000000#37 = txnWord true 15#4 0 by decide, txnWord_and, Bool.and_true, keepA, clearD]

/-- The mask of a row selected by `OP` too clears `ARG`. -/
theorem txnWord_and_commandMask (w : Bool) (a : BitVec 4) (d : Word) :
    txnWord w a d &&& 0x1FFF000000#37 = txnWord w a (cmdOp d ++ 0#24) := by
  have keepA : a &&& 15#4 = a := BitVec.and_allOnes
  have keepOp : cmdOp d &&& 255#8 = cmdOp d := BitVec.and_allOnes
  have clearArg : d &&& (255#8 ++ 0#24) = cmdOp d ++ 0#24 := by
    rw [← cmd_fields d, BitVec.and_append, cmdOp_append, keepOp, BitVec.and_zero]
  rw [show 0x1FFF000000#37 = txnWord true 15#4 (255#8 ++ 0#24) by decide, txnWord_and,
    Bool.and_true, keepA, clearArg]

@[simp] theorem addressRow_mnemonic (n : String) (w : Bool) (a : BitVec 4) :
    (addressRow n w a).mnemonic = n := rfl

@[simp] theorem commandRow_mnemonic (n : String) (op : BitVec 8) : (commandRow n op).mnemonic = n := rfl

@[simp] theorem matches_addressRow (n : String) (w v : Bool) (a b : BitVec 4) (d : Word) :
    (txnWord w a d &&& (addressRow n v b).mask == (addressRow n v b).value) = (w == v && a == b) := by
  rw [Bool.eq_iff_iff]
  simp [addressRow, txnWord_and_addressMask, txnWord_inj]

@[simp] theorem matches_commandRow (n : String) (w : Bool) (a : BitVec 4) (d : Word) (op : BitVec 8) :
    (txnWord w a d &&& (commandRow n op).mask == (commandRow n op).value) =
      (w && a == 2 && cmdOp d == op) := by
  have sameOp : cmdOp d ++ 0#24 = op ++ 0#24 ↔ cmdOp d = op :=
    ⟨fun h => by simpa using congrArg cmdOp h, fun h => by rw [h]⟩
  rw [Bool.eq_iff_iff]
  simp [commandRow, cmdWord, txnWord_and_commandMask, txnWord_inj, sameOp, and_assoc]

/-- The five defined opcodes (R113) and the reserved ones (R117). -/
theorem opcode_cases (op : BitVec 8) :
    op = 0 ∨ op = 1 ∨ op = 2 ∨ op = 3 ∨ op = 4 ∨ 5 ≤ op.toNat := by
  bv_omega

theorem beq_eq_false_of_reserved {op k : BitVec 8} (h : 5 ≤ op.toNat) (hk : k.toNat < 5) :
    (op == k) = false := by
  rw [beq_eq_false_iff_ne]
  rintro rfl
  omega

theorem decodeCmd_of_reserved {d : Word} (h : 5 ≤ (cmdOp d).toNat) :
    decodeCmd d = .cmdReserved (cmdOp d) (cmdArg d) := by
  unfold decodeCmd
  split
  case h_6 => rfl
  all_goals omega

theorem decodeCmd_wellFormed (d : Word) : (decodeCmd d).WellFormed := by
  obtain h | h | h | h | h | reserved := opcode_cases (cmdOp d)
  case inr.inr.inr.inr.inr => rw [decodeCmd_of_reserved reserved]; exact decide_eq_true reserved
  all_goals simp only [decodeCmd, h]; rfl

theorem decodeWrite_wellFormed (a : BitVec 4) (d : Word) : (decodeWrite a d).WellFormed := by
  unfold decodeWrite
  split
  case h_3 => exact decodeCmd_wellFormed d
  all_goals rfl

theorem decodeRead_wellFormed (a : BitVec 4) : (decodeRead a).WellFormed := by
  unfold decodeRead
  split <;> rfl

theorem firstRow_read (a : BitVec 4) (d : Word) :
    (firstRow (txnWord false a d)).map (·.mnemonic) = some (decodeRead a).mnemonic := by
  obtain rfl | rfl | rfl | rfl | rfl | rfl | rfl | rfl | rfl | rfl | rfl | rfl | rfl | rfl | rfl | rfl :=
    address_cases a
  all_goals simp [firstRow, opcodeMap, decodeRead, Instr.mnemonic]

/-- `CMD_RESERVED` fixes no opcode bit: it is the first row exactly for the opcodes the five rows before it
leave. -/
theorem firstRow_command (d : Word) :
    (firstRow (txnWord true 2 d)).map (·.mnemonic) = some (decodeCmd d).mnemonic := by
  obtain h | h | h | h | h | reserved := opcode_cases (cmdOp d)
  case inr.inr.inr.inr.inr =>
    rw [decodeCmd_of_reserved reserved]
    simp [firstRow, opcodeMap, Instr.mnemonic, beq_eq_false_of_reserved reserved]
  all_goals simp [firstRow, opcodeMap, decodeCmd, Instr.mnemonic, h]

theorem firstRow_write (a : BitVec 4) (d : Word) :
    (firstRow (txnWord true a d)).map (·.mnemonic) = some (decodeWrite a d).mnemonic := by
  obtain rfl | rfl | rfl | rfl | rfl | rfl | rfl | rfl | rfl | rfl | rfl | rfl | rfl | rfl | rfl | rfl :=
    address_cases a
  case inr.inr.inl => exact firstRow_command d
  all_goals simp [firstRow, opcodeMap, decodeWrite, Instr.mnemonic]

/-- Settles O2: a word is the `W`, `A` and `D` it is made of, and for each `W` the decoder and the first row
agree, command opcodes included. -/
theorem decodeFollowsOpcodeMap : Obligations.DecodeFollowsOpcodeMap := by
  unfold Obligations.DecodeFollowsOpcodeMap
  intro t
  rw [← txnWord_fields t]
  cases txnW t with
  | false =>
    rw [decode_txnWord_read]
    exact ⟨firstRow_read _ _, decodeRead_wellFormed _⟩
  | true =>
    rw [decode_txnWord_write]
    exact ⟨firstRow_write _ _, decodeWrite_wellFormed _ _⟩

end Sys2Proof.Machine
end

section
/-! PROOFS. The host registers (40_host_registers.md): the fields of the word a read returns (R150, R58), and
what each read and write changes of the state (R150, R151). -/

namespace Sys2Proof.Machine

theorem readAt_decodeRead (a : BitVec 4) : ReadAt a (decodeRead a) := decode_txnWord_read a

theorem writeAt_decodeWrite (a : BitVec 4) : WriteAt a (decodeWrite a) := decode_txnWord_write a

/-! The words of CTRL and STATUS, field by field. -/

/-- The bits from a word's width on are 0. -/
theorem extractLsb'_of_width_le {w start : Nat} (len : Nat) (x : BitVec w) (h : w ≤ start) :
    x.extractLsb' start len = 0 := by
  apply BitVec.eq_of_getLsbD_eq
  intro i _
  simp [BitVec.getLsbD_of_ge x (start + i) (by omega)]

theorem ctrlWord_bit0 (c : Ctrl) : (ctrlWord c).getLsbD 0 = c.txEn := by
  simp only [ctrlWord, BitVec.getLsbD_setWidth, BitVec.getLsbD_append, BitVec.getLsbD_ofBool]
  simp

theorem ctrlWord_bit1 (c : Ctrl) : (ctrlWord c).getLsbD 1 = c.rxEn := by
  simp only [ctrlWord, BitVec.getLsbD_setWidth, BitVec.getLsbD_append, BitVec.getLsbD_ofBool]
  simp

theorem ctrlWord_txLine (c : Ctrl) : (ctrlWord c).extractLsb' 8 8 = c.txLine := by
  simp (disch := decide) only [ctrlWord, BitVec.extractLsb'_setWidth_of_le,
    BitVec.extractLsb'_append_eq_of_le, BitVec.extractLsb'_append_eq_of_add_le]
  exact BitVec.extractLsb'_eq_self

theorem ctrlWord_rxLine (c : Ctrl) : (ctrlWord c).extractLsb' 16 8 = c.rxLine := by
  simp (disch := decide) only [ctrlWord, BitVec.extractLsb'_setWidth_of_le,
    BitVec.extractLsb'_append_eq_of_le]
  exact BitVec.extractLsb'_eq_self

/-- The reserved bits 7:2 and 31:24 of CTRL (R58). -/
theorem ctrlWord_reserved (c : Ctrl) :
    (ctrlWord c).extractLsb' 2 6 = 0 ∧ (ctrlWord c).extractLsb' 24 8 = 0 := by
  constructor
  · simp (disch := decide) only [ctrlWord, BitVec.extractLsb'_setWidth_of_le,
      BitVec.extractLsb'_append_eq_of_le, BitVec.extractLsb'_append_eq_of_add_le]
    decide
  · rw [ctrlWord, BitVec.extractLsb'_setWidth_of_le (by decide)]
    exact extractLsb'_of_width_le 8 _ (by decide)

@[simp] theorem msgAvail_iff (s : State) : msgAvail s = true ↔ s.msg.value ≠ 0 := by simp [msgAvail]

theorem statusWord_bit1 (s : State) : (statusWord s).getLsbD 1 = msgAvail s := by
  simp only [statusWord, BitVec.getLsbD_setWidth, BitVec.getLsbD_append, BitVec.getLsbD_ofBool]
  simp

theorem statusWord_bit2 (s : State) : (statusWord s).getLsbD 2 = s.selClamped := by
  simp only [statusWord, BitVec.getLsbD_setWidth, BitVec.getLsbD_append, BitVec.getLsbD_ofBool]
  simp

/-- The reserved bits 31:3 of STATUS (R58). -/
theorem statusWord_reserved (s : State) : (statusWord s).extractLsb' 3 29 = 0 := by
  rw [statusWord, BitVec.extractLsb'_setWidth_of_le (by decide)]
  exact extractLsb'_of_width_le 29 _ (by decide)

/-! The words of the other registers, as numbers. -/

theorem shapeWord_toNat (h : Shape) : (shapeWord h).toNat = h.high.toNat + 256 * h.low.toNat := by
  rw [shapeWord, BitVec.toNat_setWidth_of_le (by decide), BitVec.toNat_append,
    ← Nat.shiftLeft_add_eq_or_of_lt h.high.isLt, Nat.shiftLeft_eq]
  omega

theorem flagsWord_toNat (p : Protocol) : (flagsWord p).toNat = p.inverted.toNat := by
  rw [flagsWord, BitVec.toNat_setWidth_of_le (by decide), BitVec.toNat_ofBool]

/-! The reads. Each is the decoding of its address, so `exec_decodeRead` gives its next state and the word. -/

/-- Settles O5: the word of CTRL, field by field. -/
theorem readCtrlReturnsItsFields : Obligations.ReadCtrlReturnsItsFields := by
  unfold Obligations.ReadCtrlReturnsItsFields
  refine ⟨readAt_decodeRead 0, fun s => ⟨ctrlWord s.ctrl, exec_decodeRead 0 s, ?_⟩⟩
  obtain ⟨low, high⟩ := ctrlWord_reserved s.ctrl
  exact ⟨ctrlWord_bit0 _, ctrlWord_bit1 _, low, ctrlWord_txLine _, ctrlWord_rxLine _, high⟩

/-- Settles O6: the word of STATUS, flag by flag, and when each computed flag is 1. -/
theorem readStatusReturnsItsFlags : Obligations.ReadStatusReturnsItsFlags := by
  unfold Obligations.ReadStatusReturnsItsFlags
  refine ⟨readAt_decodeRead 1, fun s => ⟨statusWord s, exec_decodeRead 1 s, ?_⟩⟩
  rw [statusWord_bit0, statusWord_bit1]
  exact ⟨txBusy_iff s, msgAvail_iff s, statusWord_bit2 s, statusWord_reserved s⟩

/-- Settles O7: a zero-extended field keeps its number, and a shape's word has `low` above `high`. -/
theorem readProtocolReturnsItsFields : Obligations.ReadProtocolReturnsItsFields := by
  unfold Obligations.ReadProtocolReturnsItsFields
  refine ⟨⟨readAt_decodeRead 3, readAt_decodeRead 4, readAt_decodeRead 5, readAt_decodeRead 6,
    readAt_decodeRead 7⟩, fun s => ⟨?base, ?sync, ?zero, ?one, ?flags⟩⟩
  case base => exact ⟨_, exec_decodeRead 3 s, BitVec.toNat_setWidth_of_le (by decide)⟩
  case sync => exact ⟨_, exec_decodeRead 4 s, shapeWord_toNat s.ap.sync⟩
  case zero => exact ⟨_, exec_decodeRead 5 s, shapeWord_toNat s.ap.zero⟩
  case one => exact ⟨_, exec_decodeRead 6 s, shapeWord_toNat s.ap.one⟩
  case flags => exact ⟨_, exec_decodeRead 7 s, flagsWord_toNat s.ap⟩

/-- Settles O8: TX_VALUE fills its word, and the other fields are zero-extended. -/
theorem readTransmitAndToleranceReturnTheirFields :
    Obligations.ReadTransmitAndToleranceReturnTheirFields := by
  unfold Obligations.ReadTransmitAndToleranceReturnTheirFields
  refine ⟨⟨readAt_decodeRead 8, readAt_decodeRead 9, readAt_decodeRead 10, readAt_decodeRead 11⟩,
    fun s => ⟨?repeats, exec_decodeRead 9 s, ?len, ?tol⟩⟩
  case repeats => exact ⟨_, exec_decodeRead 8 s, BitVec.toNat_setWidth_of_le (by decide)⟩
  case len => exact ⟨_, exec_decodeRead 10 s, BitVec.toNat_setWidth_of_le (by decide)⟩
  case tol => exact ⟨_, exec_decodeRead 11 s, BitVec.toNat_setWidth_of_le (by decide)⟩

/-! The writes. Each clause about a next state is the write's meaning itself, with the fields of `d` written
out. -/

/-- Settles O11: `ctrlOf` takes the four fields from `d`. -/
theorem writeCtrlSetsItsFields : Obligations.WriteCtrlSetsItsFields := by
  unfold Obligations.WriteCtrlSetsItsFields
  exact ⟨writeAt_decodeWrite 0, exec_wrCtrl⟩

/-- Settles O12: each write updates one field of the active protocol. -/
theorem writeProtocolSetsOneField : Obligations.WriteProtocolSetsOneField := by
  unfold Obligations.WriteProtocolSetsOneField
  exact ⟨⟨writeAt_decodeWrite 3, writeAt_decodeWrite 4, writeAt_decodeWrite 5, writeAt_decodeWrite 6,
    writeAt_decodeWrite 7⟩, fun d s => ⟨rfl, rfl, rfl, rfl, rfl⟩⟩

/-- Settles O13: each write updates one register. -/
theorem writeTransmitAndToleranceSetOneField : Obligations.WriteTransmitAndToleranceSetOneField := by
  unfold Obligations.WriteTransmitAndToleranceSetOneField
  exact ⟨⟨writeAt_decodeWrite 8, writeAt_decodeWrite 9, writeAt_decodeWrite 10, writeAt_decodeWrite 11⟩,
    fun d s => ⟨rfl, rfl, rfl, rfl⟩⟩

/-- Settles O14: the five writes are `noEffect`. -/
theorem writeReadOnlyHasNoEffect : Obligations.WriteReadOnlyHasNoEffect := by
  unfold Obligations.WriteReadOnlyHasNoEffect
  exact ⟨⟨writeAt_decodeWrite 1, writeAt_decodeWrite 12, writeAt_decodeWrite 13, writeAt_decodeWrite 14,
    writeAt_decodeWrite 15⟩, fun d s => ⟨rfl, rfl, rfl, rfl, rfl⟩⟩

end Sys2Proof.Machine
end

section
/-! PROOFS. The commands (41_commands.md): the opcode of each in a CMD word (R113), and the next state of INIT
(R202), SELPROTO (R203), TXSTART (R205 to R207) and CONSUME (R208). -/

namespace Sys2Proof.Machine

/-! The opcodes: the CMD row of each (R113), whatever its ARG. -/

theorem commandAt_init : CommandAt 1 fun _ => .cmdInit := fun arg => by
  rw [decode_cmdWord, decodeCmd, cmdOp_append]
  rfl

theorem commandAt_selproto : CommandAt 2 .cmdSelproto := fun arg => by
  rw [decode_cmdWord, decodeCmd, cmdOp_append, cmdArg_append]
  rfl

theorem commandAt_txstart : CommandAt 3 fun _ => .cmdTxstart := fun arg => by
  rw [decode_cmdWord, decodeCmd, cmdOp_append]
  rfl

theorem commandAt_consume : CommandAt 4 fun _ => .cmdConsume := fun arg => by
  rw [decode_cmdWord, decodeCmd, cmdOp_append]
  rfl

/-! SELPROTO. -/

theorem selprotoId_eq (arg : BitVec 24) : selprotoId arg = arg.toNat :=
  BitVec.toNat_setWidth_of_le (by decide)

theorem nProto_eq (t : ProtoTable) : nProto t = t.rest.length + 1 := rfl

theorem exec_cmdSelproto_of_entry {arg : BitVec 24} {s : State} {entry : Protocol}
    (pos : 1 ≤ arg.toNat) (found : (romEntries s.par.table)[arg.toNat - 1]? = some entry) :
    exec (.cmdSelproto arg) s = .next { s with ap := entry, selClamped := false } := by
  have inRom : arg.toNat - 1 < nProto s.par.table := (List.getElem?_eq_some_iff.1 found).1
  have inRange : 1 ≤ selprotoId arg ∧ selprotoId arg ≤ nProto s.par.table := by
    rw [selprotoId_eq]
    omega
  rw [exec, execCmdSelproto, if_pos inRange, selprotoId_eq, romRead_of_getElem? _ _ _ found]

theorem exec_cmdSelproto_of_outside {arg : BitVec 24} {s : State}
    (outside : arg.toNat = 0 ∨ nProto s.par.table < arg.toNat) :
    exec (.cmdSelproto arg) s = .next { s with ap := s.par.table.first, selClamped := true } := by
  have notInRange : ¬ (1 ≤ selprotoId arg ∧ selprotoId arg ≤ nProto s.par.table) := by
    rw [selprotoId_eq]
    omega
  rw [exec, execCmdSelproto, if_neg notInRange, romRead_one]

/-! TXSTART. -/

theorem exec_cmdTxstart_of_ready {s : State} (idle : s.tx.state = .idle) (bound : s.ctrl.txEn = true) :
    exec .cmdTxstart s = .next { s with tx := armEngine (latchOf s) s.tx } := by
  simp [exec, execCmdTxstart, idle, bound]

theorem exec_cmdTxstart_of_busy {s : State} (busy : s.tx.state ≠ .idle) :
    exec .cmdTxstart s = .next s := if_pos busy

theorem exec_cmdTxstart_of_unbound {s : State} (idle : s.tx.state = .idle)
    (unbound : s.ctrl.txEn = false) : exec .cmdTxstart s = .next s := by
  simp [exec, execCmdTxstart, noEffect, idle, unbound]

/-! The obligations. -/

/-- Settles O19: the id is in range exactly when the ROM has an entry there. -/
theorem selprotoLoadsOrClamps : Obligations.SelprotoLoadsOrClamps := by
  unfold Obligations.SelprotoLoadsOrClamps
  refine ⟨commandAt_selproto, fun arg s => ⟨?loads, ?clamps⟩⟩
  case loads => exact fun entry pos found => exec_cmdSelproto_of_entry pos found
  case clamps => exact fun outside => exec_cmdSelproto_of_outside (nProto_eq s.par.table ▸ outside)

/-- Settles O20: `latchOf` takes each field from the configuration, and `armEngine` keeps position and timer. -/
theorem txstartLatchesOrIsIgnored : Obligations.TxstartLatchesOrIsIgnored := by
  unfold Obligations.TxstartLatchesOrIsIgnored
  exact ⟨commandAt_txstart,
    fun s => ⟨exec_cmdTxstart_of_ready, exec_cmdTxstart_of_busy, exec_cmdTxstart_of_unbound⟩⟩

/-- Settles O18: entry 1 of the ROM is the table's first protocol. -/
theorem initRestoresConfigurationOnly : Obligations.InitRestoresConfigurationOnly := by
  unfold Obligations.InitRestoresConfigurationOnly
  refine ⟨commandAt_init, fun s => ?_⟩
  rw [exec, execCmdInit, romRead_one]

/-- Settles O21: CONSUME updates MSG_VALUE alone. -/
theorem consumeClearsValueOnly : Obligations.ConsumeClearsValueOnly := by
  unfold Obligations.ConsumeClearsValueOnly
  exact ⟨commandAt_consume, fun s => rfl⟩

end Sys2Proof.Machine
end

section
/-! PROOFS. The transmitter (42_transmitter.md): the waveform of the source's own example (R246). -/

namespace Sys2Proof.Machine

/-- Settles O36: one frame of two data bits, sent as the `one` shape, the `zero` shape and the sync shape, each of
them two segments of nonzero duration; these six make up the 14000 µs. -/
theorem waveformOfWorkedExample : Obligations.WaveformOfWorkedExample := by
  unfold Obligations.WaveformOfWorkedExample
  intro l
  have segments : txWave l = shapeSegments l l.one ++ shapeSegments l l.zero ++ shapeSegments l l.sync := by
    decide
  rw [segments]
  refine ⟨?values, ?final, ?duration⟩
  case values => decide
  case final => rfl
  case duration => decide

end Sys2Proof.Machine
end

section
/-! PROOFS. Edge capture (43_edge_capture.md): what every edge step leaves alone, and the edge step of a gap, the
first, an unmatched one and a matching one (R289 to R292). -/

namespace Sys2Proof.Machine

theorem distance_eq_absdiff (a b : Word) : distance a b = absdiff a.toNat b.toNat :=
  (absdiff_eq_natAbs a.toNat b.toNat).symm

theorem gapCounts_iff_gapsMatch (par : Params) (d : Word) (r : RxEngine) :
    gapCounts par d r = true ↔ r.repeatConfirmCount = 0 ∨ GapsMatch par d (capRead r.buffer 0) := by
  rw [gapCounts_iff, GapsMatch, distance_eq_absdiff]

theorem storedAt_of_buffer {i : Nat} {d : Word} {r r' : RxEngine} (inBuffer : i < 67)
    (write : r'.buffer = capWrite r.buffer i d) : StoredAt i d r r' := by
  intro j _
  rw [write]
  split
  case isTrue same => rw [same, capRead_capWrite_same _ _ _ inBuffer]
  case isFalse other => exact capRead_capWrite_other _ _ _ _ (Ne.symm other)

theorem edgeStep_onlyCapture (pct : BitVec 8) (d : Word) (s : State) :
    OnlyCapture s (edgeStep pct d s) := by
  obtain ⟨_, _, h⟩ | ⟨_, _, h⟩ | ⟨_, _, h⟩ | ⟨_, _, _, h⟩ | ⟨_, _, _, h⟩ := edgeStep_cases pct d s <;>
    (rw [h]; rfl)

/-! The edge step of a gap. -/

section gap
variable {d : Word} {s : State} (pct : BitVec 8) (gap : isGap d = true)
include gap

theorem edgeStep_of_uncounted_gap (uncounted : gapCounts s.par d s.rx = false) :
    edgeStep pct d s = { s with rx := { s.rx with
      buffer := capWrite s.rx.buffer 0 d, changeCount := 1 } } := by
  simpa [gap, uncounted] using edgeStep_cases pct d s

theorem edgeStep_of_second_gap (counted : gapCounts s.par d s.rx = true)
    (one : s.rx.repeatConfirmCount = 1) :
    edgeStep pct d s = { s with
      msg := (tryAll s.par pct.toNat s.rx.buffer s.rx.changeCount).getD s.msg,
      rx := { s.rx with
        buffer := capWrite s.rx.buffer 0 d, changeCount := 1, repeatConfirmCount := 0 } } := by
  simpa [gap, counted, one] using edgeStep_cases pct d s

theorem edgeStep_of_counted_gap (counted : gapCounts s.par d s.rx = true)
    (notOne : s.rx.repeatConfirmCount ≠ 1) :
    edgeStep pct d s = { s with rx := { s.rx with
      buffer := capWrite s.rx.buffer 0 d, changeCount := 1,
      repeatConfirmCount := s.rx.repeatConfirmCount + 1 } } := by
  simpa [gap, counted, notOne] using edgeStep_cases pct d s

/-- Whether or not a gap counts, it begins a new frame as its entry 0 (R292). -/
theorem edgeStep_gap_begins_frame :
    (edgeStep pct d s).rx.changeCount = 1 ∧ StoredAt 0 d s.rx (edgeStep pct d s).rx := by
  by_cases counted : gapCounts s.par d s.rx = true
  · by_cases one : s.rx.repeatConfirmCount = 1
    · rw [edgeStep_of_second_gap pct gap counted one]
      exact ⟨rfl, storedAt_of_buffer (by decide) rfl⟩
    · rw [edgeStep_of_counted_gap pct gap counted one]
      exact ⟨rfl, storedAt_of_buffer (by decide) rfl⟩
  · rw [edgeStep_of_uncounted_gap pct gap (Bool.eq_false_of_not_eq_true counted)]
    exact ⟨rfl, storedAt_of_buffer (by decide) rfl⟩

end gap

/-- Settles O48: a gap begins a frame in every case; it counts at count 0 and when it matches entry 0, and the one
that counts at count 1 runs the trials. -/
theorem gapStartsFrameAndMayRunTrials : Obligations.GapStartsFrameAndMayRunTrials := by
  unfold Obligations.GapStartsFrameAndMayRunTrials
  intro pct d s long
  have gap : isGap d = true := (isGap_iff d).2 long
  refine ⟨⟨edgeStep_onlyCapture pct d s, edgeStep_gap_begins_frame pct gap⟩, ?first, ?unmatched, ?matching⟩
  case first =>
    intro zero
    have counted := (gapCounts_iff_gapsMatch s.par d s.rx).2 (.inl zero)
    rw [edgeStep_of_counted_gap pct gap counted (by omega), zero]
    exact ⟨rfl, rfl⟩
  case unmatched =>
    intro one far
    have uncounted : gapCounts s.par d s.rx = false := by
      rw [Bool.eq_false_iff, ne_eq, gapCounts_iff_gapsMatch]
      exact not_or.2 ⟨by omega, far⟩
    rw [edgeStep_of_uncounted_gap pct gap uncounted]
    exact ⟨one, rfl⟩
  case matching =>
    intro one near
    have counted := (gapCounts_iff_gapsMatch s.par d s.rx).2 (.inr near)
    rw [edgeStep_of_second_gap pct gap counted one]
    exact ⟨rfl, rfl⟩

end Sys2Proof.Machine
end

section
/-! PROOFS. The decoder (44_decoder.md): the iteration over the ROM finds the first trial that succeeds (R320), and
a frame of 7 edges or fewer has none (R328). -/

namespace Sys2Proof.Machine

section iteration
variable (inclusive : Bool) (pct : Nat) (buf : Vector Word Config.cap) (n : Nat)

/-- `m` is the message of the first success among `ps`, the entry at index `k` being protocol `k + id`. -/
def FirstSuccess (ps : List Protocol) (id : Nat) (m : Message) : Prop :=
  ∃ k p acc unit, ps[k]? = some p ∧ trial inclusive pct p buf n = .success acc unit ∧
    (∀ j q, j < k → ps[j]? = some q → ∀ a u, trial inclusive pct q buf n ≠ .success a u) ∧
    m = messageOf acc unit n (k + id)

theorem not_firstSuccess_nil (id : Nat) (m : Message) : ¬ FirstSuccess inclusive pct buf n [] id m := by
  simp [FirstSuccess]

variable {inclusive pct buf n} {p : Protocol} {ps : List Protocol} {id : Nat} {m : Message}

/-- An entry that succeeds is the first success: no later index has it as an earlier failure. -/
theorem firstSuccess_cons_of_success {acc : Word} {unit : Nat}
    (success : trial inclusive pct p buf n = .success acc unit) :
    FirstSuccess inclusive pct buf n (p :: ps) id m ↔ m = messageOf acc unit n id := by
  constructor
  · rintro ⟨k, q, a, u, found, hq, earlier, rfl⟩
    cases k with
    | zero =>
      obtain rfl : p = q := by simpa using found
      obtain ⟨rfl, rfl⟩ : acc = a ∧ unit = u := by simpa [success] using hq
      rw [Nat.zero_add]
    | succ k => exact absurd success (earlier 0 p k.succ_pos rfl acc unit)
  · rintro rfl
    exact ⟨0, p, acc, unit, rfl, success, fun j _ hj => absurd hj j.not_lt_zero, by rw [Nat.zero_add]⟩

/-- After an entry that fails, the rest of the list counts on. -/
theorem firstSuccess_cons_of_fail (fail : ∀ a u, trial inclusive pct p buf n ≠ .success a u) :
    FirstSuccess inclusive pct buf n (p :: ps) id m ↔ FirstSuccess inclusive pct buf n ps (id + 1) m := by
  constructor
  · rintro ⟨k, q, a, u, found, hq, earlier, rfl⟩
    cases k with
    | zero =>
      obtain rfl : p = q := by simpa using found
      exact absurd hq (fail a u)
    | succ k =>
      exact ⟨k, q, a, u, found, hq, fun j r hj => earlier (j + 1) r (Nat.succ_lt_succ hj),
        by rw [Nat.succ_add_eq_add_succ]⟩
  · rintro ⟨k, q, a, u, found, hq, earlier, rfl⟩
    refine ⟨k + 1, q, a, u, found, hq, fun j r hj hr => ?_, by rw [Nat.succ_add_eq_add_succ]⟩
    cases j with
    | zero =>
      obtain rfl : p = r := by simpa using hr
      exact fail
    | succ j => exact earlier j r (Nat.lt_of_succ_lt_succ hj) hr

theorem tryFrom_eq_some_iff :
    tryFrom inclusive pct buf n ps id = some m ↔ FirstSuccess inclusive pct buf n ps id m := by
  induction ps generalizing id with
  | nil => simp [tryFrom, not_firstSuccess_nil]
  | cons p ps ih =>
    by_cases success : ∃ acc unit, trial inclusive pct p buf n = .success acc unit
    · obtain ⟨acc, unit, success⟩ := success
      rw [tryFrom_cons_success (h := success), firstSuccess_cons_of_success success,
        Option.some.injEq, eq_comm]
    · have fail : ∀ a u, trial inclusive pct p buf n ≠ .success a u := by simpa using success
      rw [tryFrom_cons_fail (h := fail), firstSuccess_cons_of_fail fail, ih]

end iteration

theorem trial_of_short {n : Nat} (short : n ≤ 7) (inclusive : Bool) (pct : Nat) (p : Protocol)
    (buf : Vector Word Config.cap) : trial inclusive pct p buf n = .tooShort :=
  if_pos short

theorem tryAll_eq_some_iff (par : Params) (pct : Nat) (buf : Vector Word Config.cap) (n : Nat) (m : Message) :
    tryAll par pct buf n = some m ↔
      FirstSuccess par.matchInclusive pct buf n (romEntries par.table) 1 m :=
  tryFrom_eq_some_iff

/-- Settles O54: the induction over the ROM's entries is `tryFrom_eq_some_iff`, here with the first entry
numbered 1. -/
theorem firstSuccessIsPublished : Obligations.FirstSuccessIsPublished := by
  unfold Obligations.FirstSuccessIsPublished
  exact fun par pct n buf m => tryAll_eq_some_iff par pct buf n m

/-- Settles O52: what is published comes from a trial that succeeds, and every trial is too short. -/
theorem shortFramePublishesNothing : Obligations.ShortFramePublishesNothing := by
  unfold Obligations.ShortFramePublishesNothing
  intro par pct n buf short
  refine ⟨fun p => trial_of_short short _ _ p _, Option.eq_none_iff_forall_ne_some.2 fun m published => ?_⟩
  obtain ⟨_, p, acc, unit, _, success, _⟩ := (tryAll_eq_some_iff ..).1 published
  rw [trial_of_short short] at success
  cases success

end Sys2Proof.Machine
end

section
/-! PROOFS. Decoding and encoding (30_encoding.md): each undoes the other, up to the bits that are no operands
(R110 to R116), and words the spec writes out. -/

namespace Sys2Proof.Machine

theorem commandAt_nop : CommandAt 0 fun _ => .cmdNop := fun arg => by
  rw [decode_cmdWord, decodeCmd, cmdOp_append]
  rfl

theorem commandAt_reserved {op : BitVec 8} (reserved : 5 ≤ op.toNat) :
    CommandAt op (.cmdReserved op) := fun arg => by
  rw [decode_cmdWord, decodeCmd_of_reserved (by rwa [cmdOp_append]), cmdOp_append, cmdArg_append]

/-- Only CMD_RESERVED needs the well-formedness check: the other words fix every selector bit. -/
theorem decode_encode {i : Instr} (wf : i.WellFormed) : decode (encode i) = i := by
  cases i
  case cmdNop => exact commandAt_nop 0
  case cmdInit => exact commandAt_init 0
  case cmdSelproto arg => exact commandAt_selproto arg
  case cmdTxstart => exact commandAt_txstart 0
  case cmdConsume => exact commandAt_consume 0
  case cmdReserved op arg => exact commandAt_reserved (of_decide_eq_true wf) arg
  all_goals
    simp only [encode, decode_txnWord_read, decode_txnWord_write]
    rfl

/-- Settles O1: `decode_encode`, row by row. -/
theorem decodeOfEncodeIsIdentity : Obligations.DecodeOfEncodeIsIdentity := by
  unfold Obligations.DecodeOfEncodeIsIdentity
  exact fun i wf => decode_encode wf

/-! Encoding what a word decodes to. -/

theorem encode_decodeRead (a : BitVec 4) : encode (decodeRead a) = txnWord false a 0 := by
  obtain rfl | rfl | rfl | rfl | rfl | rfl | rfl | rfl | rfl | rfl | rfl | rfl | rfl | rfl | rfl | rfl :=
    address_cases a <;> rfl

theorem meaningfulBits_decodeRead (a : BitVec 4) : meaningfulBits (decodeRead a) = 0x1F00000000#37 := by
  unfold decodeRead
  split <;> rfl

theorem encode_decodeCmd (d : Word) :
    encode (decodeCmd d) = txnWord true 2 d &&& meaningfulBits (decodeCmd d) := by
  have keepAll (t : TxnWord) : t &&& 0x1FFFFFFFFF#37 = t := BitVec.and_allOnes
  obtain h | h | h | h | h | reserved := opcode_cases (cmdOp d)
  case inr.inr.inl =>
    have select : decodeCmd d = .cmdSelproto (cmdArg d) := by simp [decodeCmd, h]
    rw [select, encode, meaningfulBits, keepAll, cmdWord, ← h, cmd_fields]
  case inr.inr.inr.inr.inr =>
    rw [decodeCmd_of_reserved reserved, encode, meaningfulBits, keepAll, cmdWord, cmd_fields]
  all_goals simp [decodeCmd, h, encode, meaningfulBits, cmdWord, txnWord_and_commandMask]

theorem encode_decodeWrite (a : BitVec 4) (d : Word) :
    encode (decodeWrite a d) = txnWord true a d &&& meaningfulBits (decodeWrite a d) := by
  obtain rfl | rfl | rfl | rfl | rfl | rfl | rfl | rfl | rfl | rfl | rfl | rfl | rfl | rfl | rfl | rfl :=
    address_cases a
  case inr.inr.inl => exact encode_decodeCmd d
  all_goals exact BitVec.and_allOnes.symm

/-- Settles O3: a read keeps `W` and `A`, a write of a register the whole word, and a command what its opcode
leaves meaningful. -/
theorem encodeOfDecodeKeepsMeaningfulBits : Obligations.EncodeOfDecodeKeepsMeaningfulBits := by
  unfold Obligations.EncodeOfDecodeKeepsMeaningfulBits
  intro t
  rw [← txnWord_fields t]
  cases txnW t with
  | false =>
    rw [decode_txnWord_read, encode_decodeRead, meaningfulBits_decodeRead, txnWord_and_addressMask]
  | true => rw [decode_txnWord_write, encode_decodeWrite]

/-- Settles O4: the six words, decoded. -/
theorem specWordsDecode : Obligations.SpecWordsDecode := by
  unfold Obligations.SpecWordsDecode
  decide

end Sys2Proof.Machine
end

section
/-! PROOFS. What a host transaction does (40_host_registers.md, 41_commands.md): it always answers (R360), writes
only what the host owns (R68), and does not depend on the read port or the inputs to come. -/

namespace Sys2Proof.Machine

/-- A SELPROTO selects some entry and says whether it clamped: a function of the id and the table (R203). -/
theorem exec_cmdSelproto (arg : BitVec 24) (s : State) :
    exec (.cmdSelproto arg) s = .next { s with
      ap := romRead s.par.table
        (if 1 ≤ selprotoId arg ∧ selprotoId arg ≤ nProto s.par.table then selprotoId arg else 1),
      selClamped := decide ¬ (1 ≤ selprotoId arg ∧ selprotoId arg ≤ nProto s.par.table) } := by
  rw [exec, execCmdSelproto]
  split
  case isTrue inRange => simp [inRange]
  case isFalse outside => simp only [outside, not_false_eq_true, decide_true]

/-- A TXSTART arms an idle engine that is bound and otherwise has no effect (R205 to R207). -/
theorem exec_cmdTxstart (s : State) :
    exec .cmdTxstart s = .next { s with
      tx := if s.tx.state = .idle ∧ s.ctrl.txEn = true then armEngine (latchOf s) s.tx else s.tx } := by
  by_cases idle : s.tx.state = .idle
  · cases bound : s.ctrl.txEn
    · simp [exec_cmdTxstart_of_unbound idle bound]
    · simp [exec_cmdTxstart_of_ready idle bound, idle]
  · simp [exec_cmdTxstart_of_busy idle, idle]

theorem exec_total (i : Instr) (s : State) : ∃ t, exec i s = .next t := by
  cases i
  case cmdSelproto arg => exact ⟨_, exec_cmdSelproto arg s⟩
  case cmdTxstart => exact ⟨_, exec_cmdTxstart s⟩
  all_goals exact ⟨_, rfl⟩

/-- Settles O22: no arm of `exec` faults or refuses. -/
theorem everyTransactionCompletes : Obligations.EveryTransactionCompletes := by
  unfold Obligations.EveryTransactionCompletes
  exact exec_total

/-- The message a transaction leaves (R208). -/
theorem exec_msg {i : Instr} {s t : State} (h : exec i s = .next t) :
    t.msg = if i = .cmdConsume then { s.msg with value := 0 } else s.msg := by
  by_cases consume : i = .cmdConsume
  · subst consume
    cases h
    rfl
  · rw [if_neg consume]
    obtain ⟨_, _, rfl⟩ | ⟨_, _, msg, _⟩ | ⟨_, _, _, rfl⟩ | ⟨eq, _⟩ := exec_cases h
    exacts [rfl, msg, rfl, absurd eq consume]

/-- The transmit engine a transaction leaves (R205 to R207). -/
theorem exec_tx {i : Instr} {s t : State} (h : exec i s = .next t) :
    t.tx = if i = .cmdTxstart ∧ s.tx.state = .idle ∧ s.ctrl.txEn = true
      then armEngine (latchOf s) s.tx else s.tx := by
  by_cases start : i = .cmdTxstart
  · subst start
    rw [exec_cmdTxstart] at h
    cases h
    simp
  · rw [if_neg (fun both => start both.1)]
    obtain ⟨_, _, rfl⟩ | ⟨_, _, _, tx, _⟩ | ⟨eq, _⟩ | ⟨_, rfl⟩ := exec_cases h
    exacts [rfl, tx, absurd eq start, rfl]

theorem exec_selClamped {i : Instr} {s t : State} (h : exec i s = .next t) (notInit : i ≠ .cmdInit)
    (notSelect : ∀ arg, i ≠ .cmdSelproto arg) : t.selClamped = s.selClamped := by
  cases i
  case cmdInit => contradiction
  case cmdSelproto arg => exact absurd rfl (notSelect arg)
  case cmdTxstart => rw [exec_cmdTxstart] at h; cases h; rfl
  all_goals cases h; rfl

/-- Settles O23: what each transaction leaves alone, and the two exceptions. -/
theorem hostWritesOnlyWhatItOwns : Obligations.HostWritesOnlyWhatItOwns := by
  unfold Obligations.HostWritesOnlyWhatItOwns
  intro i s t h
  have msg := exec_msg h
  have tx := exec_tx h
  refine ⟨exec_rx h, exec_par h, exec_inputs h, ?bitlen, ?proto, ?delay, ?value, ?engine⟩
  case bitlen => rw [msg]; split <;> rfl
  case proto => rw [msg]; split <;> rfl
  case delay => rw [msg]; split <;> rfl
  case value =>
    intro changed
    by_contra other
    exact changed (by rw [msg, if_neg other])
  case engine =>
    intro changed
    by_contra other
    exact changed (tx.trans (if_neg fun accept => other ⟨accept.1, accept.2.1⟩))

/-! Reads. -/

theorem exec_read {i : Instr} (read : i.isRead = true) (s : State) : ∃ w, exec i s = .next (afterRead s w) := by
  obtain ⟨t, h⟩ := exec_total i s
  obtain ⟨_, w, rfl⟩ | ⟨write, _⟩ | ⟨rfl, _⟩ | ⟨rfl, _⟩ := exec_cases h
  case inl => exact ⟨w, h⟩
  case inr.inl => exact absurd (read.symm.trans write) (by decide)
  all_goals cases read

/-- Settles O10: of the things a transaction can do, a read does the first. -/
theorem readsHaveNoSideEffect : Obligations.ReadsHaveNoSideEffect := by
  unfold Obligations.ReadsHaveNoSideEffect
  exact fun i s read => exec_read read s

/-- Settles O9: each read is the decoding of its address, and its word the register's there. -/
theorem readMessageReturnsItsFields : Obligations.ReadMessageReturnsItsFields := by
  unfold Obligations.ReadMessageReturnsItsFields
  refine ⟨⟨readAt_decodeRead 2, readAt_decodeRead 12, readAt_decodeRead 13, readAt_decodeRead 14,
    readAt_decodeRead 15⟩,
    fun s => ⟨exec_decodeRead 2 s, exec_decodeRead 12 s, ?bitlen, ?proto, exec_decodeRead 15 s⟩⟩
  case bitlen => exact ⟨_, exec_decodeRead 13 s, BitVec.toNat_setWidth_of_le (by decide)⟩
  case proto => exact ⟨_, exec_decodeRead 14 s, BitVec.toNat_setWidth_of_le (by decide)⟩

/-! Writes. -/

/-- Settles O16: a write sets fields to values that depend on its datum and the parameters alone. -/
theorem writesOtherThanTxstartAreIdempotent : Obligations.WritesOtherThanTxstartAreIdempotent := by
  unfold Obligations.WritesOtherThanTxstartAreIdempotent
  intro i s write notStart
  cases i
  case cmdTxstart => contradiction
  case cmdSelproto arg => exact ⟨_, exec_cmdSelproto arg s, exec_cmdSelproto arg _⟩
  case rdCtrl | rdStatus | rdCmd | rdProtoBase | rdProtoSync | rdProtoZero | rdProtoOne | rdProtoFlags
      | rdRepeat | rdTxValue | rdTxLen | rdRxTol | rdMsgValue | rdMsgBitlen | rdMsgProto | rdMsgDelay =>
    cases write
  all_goals exact ⟨_, rfl, rfl⟩

/-- Settles O17: the opcodes are NOP's and the reserved ones, and both commands are `noEffect`. -/
theorem nopAndReservedHaveNoEffect : Obligations.NopAndReservedHaveNoEffect := by
  unfold Obligations.NopAndReservedHaveNoEffect
  exact ⟨commandAt_nop, fun op => commandAt_reserved, fun op arg s => ⟨rfl, rfl⟩⟩

end Sys2Proof.Machine
end

section
/-! PROOFS. Reading back what was written (R58, R150, R151), and the host's operations on CTRL and on the active
protocol (30_encoding.md R127, R130, R131, R136, R137). -/

namespace Sys2Proof.Machine

/-! CTRL's fields. -/

theorem ctrlOf_ctrlWord (c : Ctrl) : ctrlOf (ctrlWord c) = c := by
  simp only [ctrlOf, ctrlWord_bit0, ctrlWord_bit1, ctrlWord_txLine, ctrlWord_rxLine]

theorem ctrlOf_and (x y : Word) : ctrlOf (x &&& y) =
    ⟨(ctrlOf x).txEn && (ctrlOf y).txEn, (ctrlOf x).rxEn && (ctrlOf y).rxEn,
      (ctrlOf x).txLine &&& (ctrlOf y).txLine, (ctrlOf x).rxLine &&& (ctrlOf y).rxLine⟩ := by
  simp only [ctrlOf, BitVec.getLsbD_and, BitVec.extractLsb'_and]

theorem ctrlOf_or (x y : Word) : ctrlOf (x ||| y) =
    ⟨(ctrlOf x).txEn || (ctrlOf y).txEn, (ctrlOf x).rxEn || (ctrlOf y).rxEn,
      (ctrlOf x).txLine ||| (ctrlOf y).txLine, (ctrlOf x).rxLine ||| (ctrlOf y).rxLine⟩ := by
  simp only [ctrlOf, BitVec.getLsbD_or, BitVec.extractLsb'_or]

/-- A line identifier shifted to bit `n` of a word: below `n` the bits are 0, from `n` on the identifier's. -/
theorem getLsbD_shiftedLine (line : BitVec 8) (n i : Nat) :
    (line.setWidth 32 <<< n).getLsbD i = (decide (i < 32) && !decide (i < n) && line.getLsbD (i - n)) := by
  rw [BitVec.getLsbD_shiftLeft, BitVec.getLsbD_setWidth]
  by_cases inWord : i < 32
  · simp [inWord, show i - n < 32 by omega]
  · simp [inWord]

theorem ctrlOf_txLine (line : BitVec 8) : ctrlOf (line.setWidth 32 <<< 8) = ⟨false, false, line, 0⟩ := by
  simp only [ctrlOf, Ctrl.mk.injEq, getLsbD_shiftedLine]
  refine ⟨rfl, rfl, BitVec.eq_of_getLsbD_eq fun i hi => ?_, BitVec.eq_of_getLsbD_eq fun i hi => ?_⟩
  · have inWord : 8 + i < 32 := by omega
    simp [hi, inWord]
  · simp [BitVec.getLsbD_of_ge line (16 + i - 8) (by omega)]

theorem ctrlOf_rxLine (line : BitVec 8) : ctrlOf (line.setWidth 32 <<< 16) = ⟨false, false, 0, line⟩ := by
  simp only [ctrlOf, Ctrl.mk.injEq, getLsbD_shiftedLine]
  refine ⟨rfl, rfl, BitVec.eq_of_getLsbD_eq fun i hi => ?_, BitVec.eq_of_getLsbD_eq fun i hi => ?_⟩
  · simp [show 8 + i < 16 by omega]
  · have inWord : 16 + i < 32 := by omega
    simp [hi, inWord]

theorem ofBool_getLsbD (d : Word) (i : Nat) : BitVec.ofBool (d.getLsbD i) = d.extractLsb' i 1 := by
  apply BitVec.eq_of_getLsbD_eq
  intro j hj
  simp [Nat.lt_one_iff.1 hj]

/-- A word is CTRL's fields and its reserved bits 7:2 and 31:24. -/
theorem ctrl_ext {x y : Word} (fields : ctrlOf x = ctrlOf y)
    (low : x.extractLsb' 2 6 = y.extractLsb' 2 6) (high : x.extractLsb' 24 8 = y.extractLsb' 24 8) :
    x = y := by
  have parts (d : Word) : d.extractLsb' 24 8 ++ (ctrlOf d).rxLine ++ (ctrlOf d).txLine ++ d.extractLsb' 2 6 ++
      BitVec.ofBool (ctrlOf d).rxEn ++ BitVec.ofBool (ctrlOf d).txEn = d := by
    simp (disch := rfl) only [ctrlOf, ofBool_getLsbD, BitVec.extractLsb'_append_extractLsb'_eq_extractLsb']
    exact BitVec.extractLsb'_eq_self
  rw [← parts x, ← parts y, fields, low, high]

theorem ctrlWord_ctrlOf (d : Word) : ctrlWord (ctrlOf d) = d &&& 0x00FFFF03#32 := by
  have mask : ctrlOf 0x00FFFF03#32 = ⟨true, true, BitVec.allOnes 8, BitVec.allOnes 8⟩ := by decide
  obtain ⟨low, high⟩ := ctrlWord_reserved (ctrlOf d)
  refine ctrl_ext ?fields ?low ?high
  case fields => simp only [ctrlOf_ctrlWord, ctrlOf_and, mask, Bool.and_true, BitVec.and_allOnes]
  case low => rw [low, BitVec.extractLsb'_and]; exact BitVec.and_zero.symm
  case high => rw [high, BitVec.extractLsb'_and]; exact BitVec.and_zero.symm

/-! The other fields of a datum. -/

/-- A zero-extended field of the low `n` bits is the datum under the field's mask. -/
theorem setWidth_low (d : Word) {n : Nat} (fits : n ≤ 32) :
    (d.extractLsb' 0 n).setWidth 32 = d &&& BitVec.ofNat 32 (2 ^ n - 1) := by
  have mask : 2 ^ n - 1 < 2 ^ 32 :=
    Nat.lt_of_lt_of_le (Nat.sub_lt (Nat.two_pow_pos n) Nat.one_pos) (Nat.pow_le_pow_right (by decide) fits)
  apply BitVec.eq_of_toNat_eq
  rw [BitVec.toNat_setWidth_of_le fits, BitVec.extractLsb'_toNat, BitVec.toNat_and, BitVec.toNat_ofNat,
    Nat.mod_eq_of_lt mask, Nat.and_two_pow_sub_one_eq_mod, Nat.shiftRight_zero]

theorem shapeWord_shapeOf (d : Word) : shapeWord (shapeOf d) = d &&& 0x0000FFFF#32 := by
  have join : (shapeOf d).low ++ (shapeOf d).high = d.extractLsb' 0 16 :=
    BitVec.extractLsb'_append_extractLsb'_eq_extractLsb' rfl
  rw [shapeWord, join]
  exact setWidth_low d (by decide)

theorem flagsWord_invertedOf (d : Word) (p : Protocol) :
    flagsWord { p with inverted := invertedOf d } = d &&& 0x00000001#32 := by
  rw [flagsWord, invertedOf, ofBool_getLsbD]
  exact setWidth_low d (by decide)

/-- The read at address `a` returns what a write left there, under the mask of the register's fields. -/
theorem readsBack_of_word {a : BitVec 4} {write : Word → Instr} {mask : Word} {after : Word → State → State}
    (written : ∀ d s, exec (write d) s = .next (after d s))
    (word : ∀ d s, registerWord a (after d s) = d &&& mask) : ReadsBack write (decodeRead a) mask :=
  fun d s => ⟨after d s, written d s, word d s ▸ exec_decodeRead a (after d s)⟩

/-- Settles O15: the word of a register after the write is the datum under its mask. -/
theorem readAfterWriteReturnsWritableBits : Obligations.ReadAfterWriteReturnsWritableBits := by
  unfold Obligations.ReadAfterWriteReturnsWritableBits
  have low16 (d : Word) := setWidth_low d (n := 16) (by decide)
  have low8 (d : Word) := setWidth_low d (n := 8) (by decide)
  have low6 (d : Word) := setWidth_low d (n := 6) (by decide)
  refine ⟨?ctrl, ?base, ?sync, ?zero, ?one, ?flags, ?repeats, ?value, ?len, ?tol⟩
  case ctrl => exact readsBack_of_word (a := 0) (fun _ _ => rfl) fun d _ => ctrlWord_ctrlOf d
  case base => exact readsBack_of_word (a := 3) (fun _ _ => rfl) fun d _ => low16 d
  case sync => exact readsBack_of_word (a := 4) (fun _ _ => rfl) fun d _ => shapeWord_shapeOf d
  case zero => exact readsBack_of_word (a := 5) (fun _ _ => rfl) fun d _ => shapeWord_shapeOf d
  case one => exact readsBack_of_word (a := 6) (fun _ _ => rfl) fun d _ => shapeWord_shapeOf d
  case flags => exact readsBack_of_word (a := 7) (fun _ _ => rfl) fun d s => flagsWord_invertedOf d s.ap
  case repeats => exact readsBack_of_word (a := 8) (fun _ _ => rfl) fun d _ => low16 d
  case value => exact readsBack_of_word (a := 9) (fun _ _ => rfl) fun d _ => BitVec.and_allOnes.symm
  case len => exact readsBack_of_word (a := 10) (fun _ _ => rfl) fun d _ => low6 d
  case tol => exact readsBack_of_word (a := 11) (fun _ _ => rfl) fun d _ => low8 d

/-! The host's operations. -/

/-- A read of CTRL and a write of CTRL, one after the other. -/
theorem execAll_rdCtrl_wrCtrl (x : Word) (s : State) :
    execAll [.rdCtrl, .wrCtrl x] s = .next { afterRead s (ctrlWord s.ctrl) with ctrl := ctrlOf x } := rfl

/-- Settles O59: AND and OR act on CTRL field by field, and a mask keeps or clears whole fields. -/
theorem enableOperationsChangeOnlyTheirFields : Obligations.EnableOperationsChangeOnlyTheirFields := by
  unfold Obligations.EnableOperationsChangeOnlyTheirFields
  intro s line
  have keepLine (l : BitVec 8) : l &&& 255#8 = l := BitVec.and_allOnes
  have clearTx : ctrlOf 0xFFFF00FE#32 = ⟨false, true, 0, 255#8⟩ := by decide
  have clearTxEn : ctrlOf 0xFFFFFFFE#32 = ⟨false, true, 255#8, 255#8⟩ := by decide
  have clearRx : ctrlOf 0xFF00FFFD#32 = ⟨true, false, 255#8, 0⟩ := by decide
  have clearRxEn : ctrlOf 0xFFFFFFFD#32 = ⟨true, false, 255#8, 255#8⟩ := by decide
  have setTxEn : ctrlOf 1#32 = ⟨true, false, 0, 0⟩ := by decide
  have setRxEn : ctrlOf 2#32 = ⟨false, true, 0, 0⟩ := by decide
  refine ⟨?enableTx, ?disableTx, ?enableRx, ?disableRx⟩
  case enableTx =>
    rw [opEnableTransmit, execAll_rdCtrl_wrCtrl]
    simp [ctrlOf_or, ctrlOf_and, ctrlOf_ctrlWord, ctrlOf_txLine, clearTx, keepLine, setTxEn]
  case disableTx =>
    rw [opDisableTransmit, execAll_rdCtrl_wrCtrl]
    simp [ctrlOf_and, ctrlOf_ctrlWord, clearTxEn, keepLine]
  case enableRx =>
    rw [opEnableReceive, execAll_rdCtrl_wrCtrl]
    simp [ctrlOf_or, ctrlOf_and, ctrlOf_ctrlWord, ctrlOf_rxLine, clearRx, keepLine, setRxEn]
  case disableRx =>
    rw [opDisableReceive, execAll_rdCtrl_wrCtrl]
    simp [ctrlOf_and, ctrlOf_ctrlWord, clearRxEn, keepLine]

theorem shapeOf_shapeValue (h : Shape) : shapeOf (shapeValue h.high h.low) = h := by
  simp (disch := decide) only [shapeOf, shapeValue, BitVec.extractLsb'_setWidth_of_le,
    BitVec.extractLsb'_append_eq_right, BitVec.extractLsb'_append_eq_left]

theorem low16_setWidth (b : BitVec 16) : low16 (b.setWidth 32) = b := by
  rw [low16, BitVec.extractLsb'_setWidth_of_le (by decide)]
  exact BitVec.extractLsb'_eq_self

theorem invertedOf_flag (b : Bool) : invertedOf ((BitVec.ofBool b).setWidth 32) = b := by
  cases b <;> rfl

/-- Settles O60: each write takes its field back from the value the assembler built. -/
theorem customRecordReplacesActiveProtocol : Obligations.CustomRecordReplacesActiveProtocol := by
  unfold Obligations.CustomRecordReplacesActiveProtocol
  intro p s
  have run : execAll (opSelectCustom p) s = .next { s with ap :=
    ⟨low16 (p.base.setWidth 32), shapeOf (shapeValue p.sync.high p.sync.low),
      shapeOf (shapeValue p.zero.high p.zero.low), shapeOf (shapeValue p.one.high p.one.low),
      invertedOf ((BitVec.ofBool p.inverted).setWidth 32)⟩ } := rfl
  simp only [run, low16_setWidth, shapeOf_shapeValue, invertedOf_flag]

end Sys2Proof.Machine
end

section
/-! PROOFS. Edge capture (43_edge_capture.md): the edge step of a duration that is no gap (R293, R294), lists of
such durations (R298), the frame between two gaps (R296), and what an edge step reads (R334). -/

namespace Sys2Proof.Machine

section short
variable {d : Word} {s : State} (pct : BitVec 8) (short : isGap d = false)
include short

theorem edgeStep_of_short (room : s.rx.changeCount < 67) :
    edgeStep pct d s = { s with rx := { s.rx with
      buffer := capWrite s.rx.buffer s.rx.changeCount d, changeCount := s.rx.changeCount + 1 } } := by
  simpa [short, room, Nat.not_le.2 room] using edgeStep_cases pct d s

theorem edgeStep_of_full (full : 67 ≤ s.rx.changeCount) :
    edgeStep pct d s = { s with rx := { s.rx with
      buffer := capWrite s.rx.buffer 0 d, changeCount := 1, repeatConfirmCount := 0 } } := by
  simpa [short, full, Nat.not_lt.2 full] using edgeStep_cases pct d s

/-- Only a gap runs trials. -/
theorem edgeStep_msg_of_short : (edgeStep pct d s).msg = s.msg := by
  obtain room | full := Nat.lt_or_ge s.rx.changeCount 67
  · rw [edgeStep_of_short pct short room]
  · rw [edgeStep_of_full pct short full]

end short

theorem edgeStep_changeCount_le (pct : BitVec 8) (d : Word) (s : State) :
    (edgeStep pct d s).rx.changeCount ≤ 67 := by
  obtain ⟨_, room, h⟩ | ⟨_, _, h⟩ | ⟨_, _, h⟩ | ⟨_, _, _, h⟩ | ⟨_, _, _, h⟩ := edgeStep_cases pct d s <;>
    rw [h]
  case inl => exact room
  all_goals exact Nat.le_of_ble_eq_true rfl

/-- Settles O47: the store of R294. -/
theorem shortDurationIsStored : Obligations.ShortDurationIsStored := by
  unfold Obligations.ShortDurationIsStored
  intro pct d s short room
  refine ⟨edgeStep_onlyCapture pct d s, ?_⟩
  rw [edgeStep_of_short pct ((isGap_eq_false d).2 short) room]
  exact ⟨rfl, rfl, rfl, storedAt_of_buffer room rfl⟩

/-- Settles O49: the guard of R293, and the store in the empty frame it leaves. -/
theorem overflowDropsTheFrame : Obligations.OverflowDropsTheFrame := by
  unfold Obligations.OverflowDropsTheFrame
  intro pct d s short full
  refine ⟨edgeStep_onlyCapture pct d s, ?_⟩
  rw [edgeStep_of_full pct ((isGap_eq_false d).2 short) full]
  exact ⟨rfl, rfl, rfl, storedAt_of_buffer (by decide) rfl⟩

/-! Several durations. -/

theorem edgeSteps_msg_of_short (pct : BitVec 8) {ds : List Word} (short : ∀ d ∈ ds, isGap d = false)
    (s : State) : (edgeSteps pct ds s).msg = s.msg := by
  induction ds generalizing s with
  | nil => rfl
  | cons d ds ih =>
    obtain ⟨first, rest⟩ := List.forall_mem_cons.1 short
    rw [edgeSteps, ih rest, edgeStep_msg_of_short pct first]

theorem edgeSteps_changeCount_le (pct : BitVec 8) (ds : List Word) (s : State)
    (h : s.rx.changeCount ≤ 67) : (edgeSteps pct ds s).rx.changeCount ≤ 67 := by
  induction ds generalizing s with
  | nil => exact h
  | cons d ds ih => exact ih _ (edgeStep_changeCount_le pct d s)

/-- Settles O50: neither property is lost at any duration of the list. -/
theorem noGapNeverPublishes : Obligations.NoGapNeverPublishes := by
  unfold Obligations.NoGapNeverPublishes
  intro pct ds s short count
  exact ⟨edgeSteps_msg_of_short pct (fun d hd => (isGap_eq_false d).2 (short d hd)) s,
    edgeSteps_changeCount_le pct ds s count⟩

/-! The frame between two gaps. -/

/-- The frame being captured is `ds`: they are the first entries of the buffer, and counted. -/
def Captured (ds : List Word) (r : RxEngine) : Prop :=
  r.changeCount = ds.length ∧ r.buffer.toList.take ds.length = ds

/-- A store at the end of what is captured captures one more. -/
theorem take_capWrite_end {buf : Vector Word Config.cap} {ds : List Word} (d : Word)
    (captured : buf.toList.take ds.length = ds) (room : ds.length < 67) :
    (capWrite buf ds.length d).toList.take (ds.length + 1) = ds ++ [d] := by
  have inBuffer : ds.length < (buf.toList.set ds.length d).length := by simpa using room
  rw [capWrite_toList, List.take_add_one, List.take_set_of_le (Nat.le_refl _), captured,
    List.getElem?_eq_getElem inBuffer, List.getElem_set_self]
  rfl

/-- Durations that are no gaps are captured after what is captured, as far as the buffer reaches (R294). -/
theorem edgeSteps_captured (pct : BitVec 8) {xs : List Word} (short : ∀ x ∈ xs, isGap x = false)
    {ds : List Word} {s : State} (captured : Captured ds s.rx) (room : ds.length + xs.length ≤ 67) :
    Captured (ds ++ xs) (edgeSteps pct xs s).rx ∧
      (edgeSteps pct xs s).rx.repeatConfirmCount = s.rx.repeatConfirmCount ∧
      (edgeSteps pct xs s).par = s.par := by
  induction xs generalizing ds s with
  | nil => exact ⟨by rwa [List.append_nil], rfl, rfl⟩
  | cons x xs ih =>
    obtain ⟨first, rest⟩ := List.forall_mem_cons.1 short
    obtain ⟨count, entries⟩ := captured
    have space : ds.length < 67 := by rw [List.length_cons] at room; omega
    have stored := edgeStep_of_short (s := s) pct first (by omega)
    have captured' : Captured (ds ++ [x]) (edgeStep pct x s).rx := by
      rw [stored]
      refine ⟨by simp [count], ?_⟩
      rw [List.length_append, List.length_singleton]
      exact count ▸ take_capWrite_end x entries space
    obtain ⟨all, confirm, par⟩ := ih rest captured' (by simp at room ⊢; omega)
    rw [List.append_assoc, List.singleton_append] at all
    exact ⟨all, confirm.trans (by rw [stored]), par.trans (by rw [stored])⟩

theorem capRead_zero_of_take {buf : Vector Word Config.cap} {n : Nat} {w : Word} {ws : List Word}
    (entries : buf.toList.take (n + 1) = w :: ws) : capRead buf 0 = w := by
  rw [capRead]
  cases list : buf.toList with
  | nil => rw [list] at entries; cases entries
  | cons x xs => rw [list, List.take_succ_cons] at entries; cases entries; rfl

/-- The first gap begins a frame with itself as entry 0 and counts (R290, R292). -/
theorem edgeStep_first_gap (pct : BitVec 8) {g : Word} {s : State} (gap : isGap g = true)
    (zero : s.rx.repeatConfirmCount = 0) :
    Captured [g] (edgeStep pct g s).rx ∧ (edgeStep pct g s).rx.repeatConfirmCount = 1 ∧
      (edgeStep pct g s).par = s.par ∧ (edgeStep pct g s).msg = s.msg := by
  have counted := (gapCounts_iff_gapsMatch s.par g s.rx).2 (.inl zero)
  rw [edgeStep_of_counted_gap pct gap counted (by omega), zero]
  exact ⟨⟨rfl, take_capWrite_end (ds := []) g rfl (by decide)⟩, rfl, rfl, rfl⟩

/-- Settles O51: the first gap and the durations after it are captured, and the second gap's trials look at
what is captured. -/
theorem twoMatchingGapsDecodeTheFrameBetween : Obligations.TwoMatchingGapsDecodeTheFrameBetween := by
  unfold Obligations.TwoMatchingGapsDecodeTheFrameBetween
  intro pct g d xs s zero longG longD near shortXs room
  have gapG : isGap g = true := (isGap_iff g).2 longG
  have gapD : isGap d = true := (isGap_iff d).2 longD
  have short : ∀ x ∈ xs, isGap x = false := fun x hx => (isGap_eq_false x).2 (shortXs x hx)
  obtain ⟨begun, one, par₁, msg₁⟩ := edgeStep_first_gap pct gapG zero
  obtain ⟨captured, confirm, par₂⟩ := edgeSteps_captured pct short begun (by simp; omega)
  have frame : edgeSteps pct (g :: xs) s = edgeSteps pct xs (edgeStep pct g s) := rfl
  have all : edgeSteps pct (g :: (xs ++ [d])) s = edgeStep pct d (edgeSteps pct (g :: xs) s) :=
    edgeSteps_append pct (g :: xs) [d] s
  rw [all, frame]
  have msg : (edgeSteps pct xs (edgeStep pct g s)).msg = s.msg := (edgeSteps_msg_of_short pct short _).trans msg₁
  have par : (edgeSteps pct xs (edgeStep pct g s)).par = s.par := par₂.trans par₁
  generalize edgeSteps pct xs (edgeStep pct g s) = t at *
  obtain ⟨count, entries⟩ := captured
  have counted : gapCounts t.par d t.rx = true := by
    rw [gapCounts_iff_gapsMatch, capRead_zero_of_take entries, par]
    exact .inr near
  rw [edgeStep_of_second_gap pct gapD counted (confirm.trans one), msg, par, count]
  exact ⟨rfl, t.rx.buffer, entries, rfl, rfl⟩

/-! What an edge step reads. -/

/-- An edge step reads and writes the receive engine and the message, and reads the parameters. -/
theorem edgeStep_congr (pct : BitVec 8) (d : Word) {s s' : State} (par : s.par = s'.par)
    (rx : s.rx = s'.rx) (msg : s.msg = s'.msg) :
    (edgeStep pct d s).rx = (edgeStep pct d s').rx ∧ (edgeStep pct d s).msg = (edgeStep pct d s').msg := by
  cases gap : isGap d
  · obtain room | full := Nat.lt_or_ge s.rx.changeCount 67
    · rw [edgeStep_of_short pct gap room, edgeStep_of_short pct gap (rx ▸ room), rx]
      exact ⟨rfl, msg⟩
    · rw [edgeStep_of_full pct gap full, edgeStep_of_full pct gap (rx ▸ full), rx]
      exact ⟨rfl, msg⟩
  · cases counted : gapCounts s.par d s.rx
    · rw [edgeStep_of_uncounted_gap pct gap counted,
        edgeStep_of_uncounted_gap pct gap (par ▸ rx ▸ counted), rx]
      exact ⟨rfl, msg⟩
    · by_cases one : s.rx.repeatConfirmCount = 1
      · rw [edgeStep_of_second_gap pct gap counted one,
          edgeStep_of_second_gap pct gap (par ▸ rx ▸ counted) (rx ▸ one), par, rx, msg]
        exact ⟨rfl, rfl⟩
      · rw [edgeStep_of_counted_gap pct gap counted one,
          edgeStep_of_counted_gap pct gap (par ▸ rx ▸ counted) (rx ▸ one), rx]
        exact ⟨rfl, msg⟩

/-- Settles O57: the active protocol is in neither of the fields an edge step reads. -/
theorem receiverIgnoresActiveProtocol : Obligations.ReceiverIgnoresActiveProtocol := by
  unfold Obligations.ReceiverIgnoresActiveProtocol
  exact fun pct d s s' par rx msg => edgeStep_congr pct d par rx msg

end Sys2Proof.Machine
end

section
/-! PROOFS. One cycle without reset as a whole (10_state.md section 6, 20_memory.md R92): the host's write acts on
the state at the start of the cycle, whatever its read drives, and the engines act on what the write leaves. -/

namespace Sys2Proof.Machine

/-- The state with `w` on the read port and `inputs` to come. -/
def State.withPort (s : State) (w : Option Word) (inputs : List CycleIn) : State :=
  { s with busRdata := w, inputs := inputs }

section withPort
variable (s : State) (w : Option Word) (inputs : List CycleIn)
@[simp] theorem withPort_par : (s.withPort w inputs).par = s.par := rfl
@[simp] theorem withPort_ctrl : (s.withPort w inputs).ctrl = s.ctrl := rfl
@[simp] theorem withPort_selClamped : (s.withPort w inputs).selClamped = s.selClamped := rfl
@[simp] theorem withPort_ap : (s.withPort w inputs).ap = s.ap := rfl
@[simp] theorem withPort_repeatCount : (s.withPort w inputs).repeatCount = s.repeatCount := rfl
@[simp] theorem withPort_txValue : (s.withPort w inputs).txValue = s.txValue := rfl
@[simp] theorem withPort_txLen : (s.withPort w inputs).txLen = s.txLen := rfl
@[simp] theorem withPort_rxTol : (s.withPort w inputs).rxTol = s.rxTol := rfl
@[simp] theorem withPort_msg : (s.withPort w inputs).msg = s.msg := rfl
@[simp] theorem withPort_tx : (s.withPort w inputs).tx = s.tx := rfl
@[simp] theorem withPort_rx : (s.withPort w inputs).rx = s.rx := rfl
@[simp] theorem withPort_busRdata : (s.withPort w inputs).busRdata = w := rfl
end withPort

/-! The host's part. -/

theorem decodeCmd_isRead (d : Word) : (decodeCmd d).isRead = false := by
  unfold decodeCmd
  split <;> rfl

theorem decodeWrite_isRead (a : BitVec 4) (d : Word) : (decodeWrite a d).isRead = false := by
  unfold decodeWrite
  split
  case h_3 => exact decodeCmd_isRead d
  all_goals rfl

/-- No write depends on the read port or on the inputs to come, and none touches them. -/
theorem exec_withPort {i : Instr} {s t : State} (write : i.isRead = false) (h : exec i s = .next t)
    (w : Option Word) (inputs : List CycleIn) : exec i (s.withPort w inputs) = .next (t.withPort w inputs) := by
  cases i
  case cmdSelproto arg => rw [exec_cmdSelproto] at h ⊢; cases h; rfl
  case cmdTxstart => rw [exec_cmdTxstart] at h ⊢; cases h; rfl
  case rdCtrl | rdStatus | rdCmd | rdProtoBase | rdProtoSync | rdProtoZero | rdProtoOne | rdProtoFlags
      | rdRepeat | rdTxValue | rdTxLen | rdRxTol | rdMsgValue | rdMsgBitlen | rdMsgProto | rdMsgDelay =>
    cases write
  all_goals cases h; rfl

theorem hostWrite_cases {c : CycleIn} {s v : State} (h : hostWrite c s = .next v) :
    (c.busWe = false ∧ v = s) ∨ (c.busWe = true ∧ exec (decode (cycleWriteWord c)) s = .next v) := by
  unfold hostWrite at h
  split at h
  case isTrue we => exact .inr ⟨we, h⟩
  case isFalse we => cases h; exact .inl ⟨Bool.eq_false_of_not_eq_true we, rfl⟩

section hostWrite
variable {c : CycleIn} {s v : State} (h : hostWrite c s = .next v)
include h

theorem hostWrite_par : v.par = s.par := by
  obtain ⟨_, rfl⟩ | ⟨_, run⟩ := hostWrite_cases h
  exacts [rfl, exec_par run]

theorem hostWrite_rx : v.rx = s.rx := by
  obtain ⟨_, rfl⟩ | ⟨_, run⟩ := hostWrite_cases h
  exacts [rfl, exec_rx run]

theorem hostWrite_msg : v.msg = hostMessage c s.msg := by
  obtain ⟨noWrite, rfl⟩ | ⟨write, run⟩ := hostWrite_cases h
  · simp [hostMessage, noWrite]
  · simp [hostMessage, write, exec_msg run]

theorem hostWrite_tx : v.tx = if c.busWe = true ∧ decode (cycleWriteWord c) = .cmdTxstart ∧
    s.tx.state = .idle ∧ s.ctrl.txEn = true then armEngine (latchOf s) s.tx else s.tx := by
  obtain ⟨noWrite, rfl⟩ | ⟨write, run⟩ := hostWrite_cases h
  · simp [noWrite]
  · simp [write, exec_tx run]

end hostWrite

theorem hostWrite_withPort {c : CycleIn} {s v : State} (h : hostWrite c s = .next v)
    (w : Option Word) (inputs : List CycleIn) :
    hostWrite c (s.withPort w inputs) = .next (v.withPort w inputs) := by
  obtain ⟨noWrite, rfl⟩ | ⟨write, run⟩ := hostWrite_cases h
  · simp [hostWrite, noWrite]
  · rw [hostWrite, if_pos write]
    exact exec_withPort (decode_txnWord_write _ _ ▸ decodeWrite_isRead _ _) run w inputs

theorem hostWrite_total (c : CycleIn) (s : State) : ∃ v, hostWrite c s = .next v := by
  unfold hostWrite
  split
  case isTrue => exact exec_total _ s
  case isFalse => exact ⟨s, rfl⟩

/-- What a cycle's read strobe drives: the register as it stands in `s` (R33, R34). -/
def readPort (c : CycleIn) (s : State) : Option Word :=
  if c.busRe then some (registerWord c.busAddr s) else none

theorem hostRead_beginCycle (c : CycleIn) (s : State) :
    hostRead c (beginCycle s) = .next (s.withPort (readPort c s) s.inputs.tail) := by
  rw [hostRead_eq, readPort]
  cases c.busRe <;> rfl

theorem hostPhase_of_hostWrite {c : CycleIn} {s v : State} (h : hostWrite c s = .next v) :
    hostPhase c (beginCycle s) = .next (v.withPort (readPort c s) s.inputs.tail) := by
  rw [hostPhase, hostRead_beginCycle]
  exact hostWrite_withPort h _ _

/-! The whole cycle. -/

/-- A cycle without reset leads from `s` to `t`, its write leaving `v`. -/
structure Runs (s v t : State) : Prop where
  write : hostWrite (nextCycle s) s = .next v
  next : t = enginePhase (nextCycle s) (beginCycle s) (v.withPort (readPort (nextCycle s) s) s.inputs.tail)

theorem runs_of_step {s t : State} (h : step s = .next t) (run : (nextCycle s).rst = false) :
    ∃ v, Runs s v t := by
  obtain ⟨_, ⟨rst, _⟩ | ⟨_, _, u, host, rfl⟩⟩ := step_cases h
  · exact absurd (run.symm.trans rst) (by decide)
  · obtain ⟨v, write⟩ := hostWrite_total (nextCycle s) s
    rw [hostPhase_of_hostWrite write] at host
    cases host
    exact ⟨v, write, rfl⟩

/-- The edge step of a cycle's pending transition: with the tolerance at the start of the cycle, and the message
the host's part leaves (R34, R92; log 9). -/
def cycleEdge (c : CycleIn) (s : State) : State :=
  edgeStep s.rxTol s.rx.pendDur { s with msg := hostMessage c s.msg }

/-- The edge step of the state the host's part leaves is the cycle's. -/
theorem edgeStep_of_hostWrite {c : CycleIn} {s v : State} (write : hostWrite c s = .next v) (w : Option Word)
    (inputs : List CycleIn) :
    (edgeStep s.rxTol s.rx.pendDur (v.withPort w inputs)).rx = (cycleEdge c s).rx ∧
      (edgeStep s.rxTol s.rx.pendDur (v.withPort w inputs)).msg = (cycleEdge c s).msg :=
  edgeStep_congr _ _ (s := v.withPort w inputs) (s' := { s with msg := hostMessage c s.msg })
    (hostWrite_par write :) (hostWrite_rx write :) (hostWrite_msg write :)

namespace Runs
variable {s v t : State} (h : Runs s v t)
include h

theorem config : SameConfiguration v t := by
  rw [h.next]
  simp [SameConfiguration]

theorem par : t.par = s.par := by
  rw [h.next, enginePhase_par, withPort_par, hostWrite_par h.write]

theorem busRdata : t.busRdata = readPort (nextCycle s) s := by
  rw [h.next, enginePhase_busRdata, withPort_busRdata]

theorem tx : t.tx = if (nextCycle s).usTick = true ∧ s.tx.state ≠ .idle
    then tickEngine s.par.txFinalFollowsInvert v.tx else v.tx := by
  rw [h.next, enginePhase_tx, withPort_par, hostWrite_par h.write]
  simp only [Bool.and_eq_true, decide_eq_true_eq]
  rfl

theorem msg : t.msg = if edgeDue (nextCycle s).edgeGo s.rx then (cycleEdge (nextCycle s) s).msg
    else hostMessage (nextCycle s) s.msg := by
  rw [h.next, enginePhase_msg]
  simp only [beginCycle_rx, beginCycle_rxTol, withPort_rx, withPort_msg, hostWrite_rx h.write,
    (edgeStep_of_hostWrite h.write _ _).2, hostWrite_msg h.write]

/-- The receive engine the front end finds: after the pending edge step, if it is due. -/
theorem rx : t.rx = frontEnd s.par.minEdgeSpacing (nextCycle s).usTick (nextCycle s).rxIn (accepted s) s.rx
    (if edgeDue (nextCycle s).edgeGo s.rx then { (cycleEdge (nextCycle s) s).rx with pend := false }
     else s.rx) := by
  rw [h.next, enginePhase_rx]
  simp only [consumePending, beginCycle_rx, beginCycle_rxTol, withPort_rx, withPort_par,
    hostWrite_rx h.write, hostWrite_par h.write, (edgeStep_of_hostWrite h.write _ _).1]
  rfl

end Runs

end Sys2Proof.Machine
end

section
/-! PROOFS. What a step does (10_state.md sections 1, 5 to 7, 9, 20_memory.md section 5): when it answers, the
cycle of reset, what the engines leave of the configuration, and what a read returns. -/

namespace Sys2Proof.Machine

/-! When a step answers (R11, R287), and with what (R92). -/

theorem step_of_rst {s : State} (wf : paramsWf s.par = true) (rst : (nextCycle s).rst = true) :
    step s = .next (applyReset (beginCycle s)) := by
  rw [step, runCycle, if_pos wf, clockCycle, if_pos rst]

theorem step_of_tooClose {s : State} (wf : paramsWf s.par = true) (run : (nextCycle s).rst = false)
    (close : tooClose s = true) : step s = .refused .edgeSpacing := by
  have close' : tooClose (beginCycle s) = true := close
  simp [step, runCycle, clockCycle, wf, run, close']

theorem step_of_hostPhase {s u : State} (wf : paramsWf s.par = true) (run : (nextCycle s).rst = false)
    (apart : tooClose (beginCycle s) = false) (host : hostPhase (nextCycle s) (beginCycle s) = .next u) :
    step s = .next (enginePhase (nextCycle s) (beginCycle s) u) := by
  simp [step, runCycle, clockCycle, wf, run, apart, host, andThen]

theorem paramsWf_iff (p : Params) : paramsWf p = true ↔ tableWf p.table = true ∧ 1 ≤ p.syncStages := by
  simp [paramsWf]

/-- Settles O30: the checks of `step`, in their order, and a host's part that always completes. -/
theorem stepCompletesUnlessInputsAreRefused : Obligations.StepCompletesUnlessInputsAreRefused := by
  unfold Obligations.StepCompletesUnlessInputsAreRefused
  refine fun s => ⟨fun malformed => ?table, fun noFlop => ?chain, fun table chain run close => ?close,
    fun table chain admitted => ?completes⟩
  case table => exact step_of_paramsWf_false (paramsWf_of_tableWf_false malformed)
  case chain =>
    refine step_of_paramsWf_false (Bool.eq_false_iff.2 fun wf => ?_)
    have := ((paramsWf_iff _).1 wf).2
    omega
  case close => exact step_of_tooClose ((paramsWf_iff _).2 ⟨table, chain⟩) run close
  case completes =>
    have wf := (paramsWf_iff _).2 ⟨table, chain⟩
    cases rst : (nextCycle s).rst
    · have apart : tooClose s = false := admitted.resolve_left (by simp [rst])
      obtain ⟨v, write⟩ := hostWrite_total (nextCycle s) s
      exact ⟨_, step_of_hostPhase wf rst apart (hostPhase_of_hostWrite write)⟩
    · exact ⟨_, step_of_rst wf rst⟩

/-- The host's part of a placed cycle is the transaction placed: as the read or as the write its `W` makes it. -/
theorem hostPhase_withTransaction (c : CycleIn) (t : TxnWord) (s : State) :
    hostPhase (withTransaction c t) s = exec (decode t) s := by
  obtain ⟨u, run⟩ := exec_total (decode t) s
  have fields := txnWord_fields t
  cases w : txnW t <;> rw [w] at fields
  · have word : cycleReadWord (withTransaction c t) = t := fields
    have strobes : (withTransaction c t).busRe = true ∧ (withTransaction c t).busWe = false := by
      simp [withTransaction, w]
    simp [hostPhase, hostRead, hostWrite, word, strobes, run, andThen]
  · have word : cycleWriteWord (withTransaction c t) = t := fields
    have strobes : (withTransaction c t).busRe = false ∧ (withTransaction c t).busWe = true := by
      simp [withTransaction, w]
    simp [hostPhase, hostRead, hostWrite, word, strobes, run, andThen]

theorem decodeTableWord_eq_some {nbits w : Nat} {i : Instr} (h : decodeTableWord nbits w = some i) :
    decode (BitVec.ofNat 37 (w % 2 ^ nbits)) = i := by
  unfold decodeTableWord decodeNumber at h
  split at h
  case h_1 j found =>
    split at found
    case isTrue => cases found; exact Option.some.inj h
    case isFalse => cases found
  case h_2 => cases h

/-- Settles O28: in each case the strobes fix the host's part, and the engines' part follows it. -/
theorem stepRunsDecodedTransaction : Obligations.StepRunsDecodedTransaction := by
  unfold Obligations.StepRunsDecodedTransaction
  intro s u wf apart
  refine ⟨fun run re we h => ?read, fun run re we h => ?write, fun r run re we hr hu => ?both,
    fun run re we => ?neither, fun w i decoded h => ?placed⟩
  case read =>
    refine step_of_hostPhase wf run apart ?_
    simp [hostPhase, hostRead, hostWrite, re, we, h, andThen]
  case write =>
    refine step_of_hostPhase wf run apart ?_
    simp [hostPhase, hostRead, hostWrite, re, we, h, andThen]
  case both =>
    refine step_of_hostPhase wf run apart ?_
    simp [hostPhase, hostRead, hostWrite, re, we, hr, hu, andThen]
  case neither =>
    refine step_of_hostPhase wf run apart ?_
    simp [hostPhase, hostRead, hostWrite, re, we, andThen]
  case placed =>
    refine step_of_hostPhase (s := s.withFetchWord 40 w) wf rfl apart ?_
    refine (hostPhase_withTransaction _ _ _).trans ?_
    rw [decodeTableWord_eq_some decoded]
    exact h

/-! Reset. -/

/-- Settles O33: a cycle with `rst` is `applyReset`, whatever its other inputs are. -/
theorem resetCycleOverridesEverything : Obligations.ResetCycleOverridesEverything := by
  unfold Obligations.ResetCycleOverridesEverything
  exact fun s wf rst => ⟨_, step_of_rst wf rst, hasResetValues_resetWith s.par, rfl, rfl⟩

/-! What no step, or no cycle without reset, changes. -/

theorem step_par {s t : State} (h : step s = .next t) : t.par = s.par := by
  obtain ⟨_, ⟨_, rfl⟩ | ⟨_, _, u, host, rfl⟩⟩ := step_cases h
  · rfl
  · rw [enginePhase_par, hostPhase_par host, beginCycle_par]

/-- Settles O27: neither a reset, nor a transaction, nor the engines write the parameters. -/
theorem parametersNeverChange : Obligations.ParametersNeverChange := by
  unfold Obligations.ParametersNeverChange
  exact fun s t h => step_par h

/-- Settles O24: the configuration at the end of a cycle is that of the state its write leaves. -/
theorem enginesLeaveConfigurationAlone : Obligations.EnginesLeaveConfigurationAlone := by
  unfold Obligations.EnginesLeaveConfigurationAlone
  intro s t h run
  obtain ⟨v, cycle⟩ := runs_of_step h run
  obtain ⟨noWrite, rfl⟩ | ⟨write, ran⟩ := hostWrite_cases cycle.write
  · exact ⟨fun _ => cycle.config, fun write => absurd (noWrite.symm.trans write) (by decide)⟩
  · exact ⟨fun noWrite => absurd (noWrite.symm.trans write) (by decide), fun _ => ⟨v, ran, cycle.config⟩⟩

/-- Settles O25: the engines keep SEL_CLAMPED, and so do the transactions that select nothing. -/
theorem selClampedChangesOnlyBySelection : Obligations.SelClampedChangesOnlyBySelection := by
  unfold Obligations.SelClampedChangesOnlyBySelection
  intro s t h run noSelection
  obtain ⟨v, cycle⟩ := runs_of_step h run
  obtain ⟨_, _, _, _, _, _, engines⟩ := cycle.config
  rw [engines]
  obtain ⟨_, rfl⟩ | ⟨write, ran⟩ := hostWrite_cases cycle.write
  · rfl
  · obtain ⟨notInit, notSelect⟩ := noSelection write
    exact exec_selClamped ran notInit notSelect

/-- Settles O29: the port takes the register's word from the state at the start of the cycle. -/
theorem readReturnsStartOfCycleValue : Obligations.ReadReturnsStartOfCycleValue := by
  unfold Obligations.ReadReturnsStartOfCycleValue
  intro s t h run read
  obtain ⟨v, cycle⟩ := runs_of_step h run
  rw [cycle.busRdata, readPort, if_pos read]

/-! The transmit engine. -/

/-- Settles O40: no transaction touches a busy engine. -/
theorem nothingStopsATransmission : Obligations.NothingStopsATransmission := by
  unfold Obligations.NothingStopsATransmission
  intro s t h run busy
  obtain ⟨v, cycle⟩ := runs_of_step h run
  have kept : v.tx = s.tx := by simp [hostWrite_tx cycle.write, busy]
  simp [cycle.tx, kept, busy]

/-- Settles O41: an engine idle at the start of the cycle takes no tick step in it. -/
theorem txstartIsSeenFromTheNextCycle : Obligations.TxstartIsSeenFromTheNextCycle := by
  unfold Obligations.TxstartIsSeenFromTheNextCycle
  intro s t h run idle
  obtain ⟨v, cycle⟩ := runs_of_step h run
  have noTick : t.tx = v.tx := by simp [cycle.tx, idle]
  have host := hostWrite_tx cycle.write
  rw [noTick, host]
  exact ⟨fun write start bound => if_pos ⟨write, start, idle, bound⟩,
    fun other => if_neg fun accept => other ⟨accept.1, accept.2.1, accept.2.2.2⟩⟩

end Sys2Proof.Machine
end

section
/-! PROOFS. The receive engine and the message over one cycle (43_edge_capture.md section 1, 20_memory.md
section 5): the front end, the pending edge step, and the message. -/

namespace Sys2Proof.Machine

@[simp] theorem hostMessage_bitlen (c : CycleIn) (m : Message) : (hostMessage c m).bitlen = m.bitlen := by
  unfold hostMessage
  split <;> rfl

@[simp] theorem hostMessage_proto (c : CycleIn) (m : Message) : (hostMessage c m).proto = m.proto := by
  unfold hostMessage
  split <;> rfl

@[simp] theorem hostMessage_delay (c : CycleIn) (m : Message) : (hostMessage c m).delay = m.delay := by
  unfold hostMessage
  split <;> rfl

/-- Only a CONSUME changes MSG_VALUE, and to 0 (R208). -/
theorem hostMessage_value_changed {c : CycleIn} {m : Message} (changed : (hostMessage c m).value ≠ m.value) :
    c.busWe = true ∧ decode (cycleWriteWord c) = .cmdConsume ∧ (hostMessage c m).value = 0 := by
  unfold hostMessage at changed ⊢
  split at changed
  case isTrue consume => exact ⟨consume.1, consume.2, by rw [if_pos consume]⟩
  case isFalse => exact absurd rfl changed

/-- Settles O26: without an edge step the message is the one the host's part leaves. -/
theorem messageChangesOnlyByPublishOrConsume : Obligations.MessageChangesOnlyByPublishOrConsume := by
  unfold Obligations.MessageChangesOnlyByPublishOrConsume
  intro s t h run waits
  obtain ⟨v, cycle⟩ := runs_of_step h run
  have msg : t.msg = hostMessage (nextCycle s) s.msg := by
    simp [cycle.msg, (edgeDue_eq_false _ _).2 waits]
  rw [msg]
  exact ⟨rfl, hostMessage_bitlen _ _, hostMessage_proto _ _, hostMessage_delay _ _,
    hostMessage_value_changed⟩

/-! The front end. -/

/-- Settles O43: the front end's registers, one by one, for the two values of `accepted`. -/
theorem frontEndFollowsTheLine : Obligations.FrontEndFollowsTheLine := by
  unfold Obligations.FrontEndFollowsTheLine
  intro s t h run rxS now
  obtain ⟨v, cycle⟩ := runs_of_step h run
  rw [cycle.rx]
  refine ⟨frontEnd_sync .., frontEnd_prev .., fun transition => ?accepts, fun discarded => ?counts⟩
  case accepts =>
    have acc : accepted s = true := (accepted_eq_true s).2 transition
    simp [acc, sinceNow_toNat, now]
  case counts =>
    have acc : accepted s = false := Bool.eq_false_iff.2 fun acc => discarded ((accepted_eq_true s).1 acc)
    refine ⟨by simp [acc, sinceNow_toNat, now], fun noPend => ?_⟩
    have notDue : edgeDue (nextCycle s).edgeGo s.rx = false := by simp [edgeDue, noPend]
    simp [acc, notDue, noPend]

theorem le_sinceNow (usTick : Bool) (r : RxEngine) : r.since.toNat ≤ (sinceNow usTick r).toNat := by
  rw [sinceNow_toNat]
  omega

/-- Settles O44: with RX_EN 0 nothing is accepted, and with nothing pending no edge step is due. -/
theorem disabledTransitionIsDiscarded : Obligations.DisabledTransitionIsDiscarded := by
  unfold Obligations.DisabledTransitionIsDiscarded
  refine ⟨fun s t h run disabled noPend => ?_, fun d s => ⟨_, exec_wrCtrl d s, rfl, rfl⟩⟩
  obtain ⟨v, cycle⟩ := runs_of_step h run
  have acc : accepted s = false := by simp [accepted, disabled]
  have notDue : edgeDue (nextCycle s).edgeGo s.rx = false := by simp [edgeDue, noPend]
  simp [cycle.rx, acc, notDue, noPend, le_sinceNow]

/-! The pending transition. -/

/-- Settles O45: when due the edge step is the cycle's, and otherwise the front end alone acts, which cannot
accept a transition while the guard runs. -/
theorem pendingTransitionRunsItsEdgeStep : Obligations.PendingTransitionRunsItsEdgeStep := by
  unfold Obligations.PendingTransitionRunsItsEdgeStep
  intro s t h run pend
  obtain ⟨v, cycle⟩ := runs_of_step h run
  refine ⟨fun schedule => ?due, fun later guard => ?waits⟩
  case due =>
    have due : edgeDue (nextCycle s).edgeGo s.rx = true := (edgeDue_eq_true _ _).2 ⟨pend, schedule⟩
    intro e
    have edge : cycleEdge (nextCycle s) s = e := rfl
    simp [cycle.rx, cycle.msg, due, edge]
  case waits =>
    have notDue : edgeDue (nextCycle s).edgeGo s.rx = false := (edgeDue_eq_false _ _).2 fun _ => ⟨later, guard⟩
    have acc : accepted s = false := by
      obtain ⟨_, ⟨rst, _⟩ | ⟨_, apart, _⟩⟩ := step_cases h
      · exact absurd (run.symm.trans rst) (by decide)
      · exact Bool.eq_false_iff.2 fun acc => absurd ((tooClose_eq_false _).1 apart acc) (by simp; omega)
    simp [cycle.rx, cycle.msg, notDue, acc, pend]

/-- Settles O46: the edge step runs after the CONSUME, and its trials do not look at the message. -/
theorem publishBeatsConsumeInOneCycle : Obligations.PublishBeatsConsumeInOneCycle := by
  unfold Obligations.PublishBeatsConsumeInOneCycle
  intro s t m h run _ _ pend schedule long one near found
  obtain ⟨v, cycle⟩ := runs_of_step h run
  have due : edgeDue (nextCycle s).edgeGo s.rx = true := (edgeDue_eq_true _ _).2 ⟨pend, schedule⟩
  have gap : isGap s.rx.pendDur = true := (isGap_iff _).2 long
  have counted : gapCounts s.par s.rx.pendDur s.rx = true := (gapCounts_iff_gapsMatch _ _ _).2 (.inr near)
  have edge := edgeStep_of_second_gap (s := { s with msg := hostMessage (nextCycle s) s.msg }) s.rxTol gap
    counted one
  rw [cycle.msg, if_pos due, cycleEdge, edge]
  simp [found]

end Sys2Proof.Machine
end

section
/-! PROOFS. The invariant (10_state.md section 8, 42_transmitter.md section 3, 44_decoder.md section 4): it holds
after reset, and each of its parts is kept by the part of a cycle that can touch it. -/

namespace Sys2Proof.Machine

/-! After reset. -/

theorem txEngine_reset_inv : TxEngine.reset.Inv := nofun

theorem rxEngine_reset_inv (p : Params) : (RxEngine.reset p).Inv p where
  chain := List.length_replicate
  confirm := Nat.zero_le 1
  count := Nat.zero_le Config.cap
  frame := nofun
  guard := Nat.zero_le _

/-- Settles O34: part by part. -/
theorem invariantHoldsAfterReset : Obligations.InvariantHoldsAfterReset := by
  unfold Obligations.InvariantHoldsAfterReset
  exact fun p wf => ⟨wf, txEngine_reset_inv, rxEngine_reset_inv p, .inl rfl⟩

/-! The transmit engine. -/

/-- A segment found by a search of positions in range is emitted from its first tick on (R239). -/
theorem enterSegment_inv {e : TxEngine} {o : Option TxPos} (followsInvert : Bool)
    (found : ∀ p, o = some p → p.inRange e.latch ∧ 0 < posDuration e.latch p) :
    (enterSegment followsInvert e o).Inv := by
  cases o with
  | none => exact nofun
  | some p =>
    obtain ⟨inRange, pos⟩ := found p rfl
    intro _
    rw [enterSegment_latch, enterSegment_some_pos, enterSegment_some_level, enterSegment_some_timer, timer_toNat]
    exact ⟨inRange, rfl, pos, Nat.le_refl _⟩

theorem seekPos_found {l : TxLatch} {n : Nat} {o : Option TxPos} (start : ∀ q, o = some q → q.inRange l)
    (p : TxPos) (h : seekPos l n o = some p) : p.inRange l ∧ 0 < posDuration l p :=
  ⟨seekPos_induct (succPos_inRange l) start h, seekPos_pos h⟩

theorem tickEngine_inv (followsInvert : Bool) {e : TxEngine} (inv : e.Inv) :
    (tickEngine followsInvert e).Inv := by
  obtain ⟨_, h⟩ | ⟨_, h⟩ | ⟨running, _, h⟩ | ⟨running, ticksLeft, h⟩ := tickEngine_cases followsInvert e <;>
    rw [h]
  · exact inv
  · exact enterSegment_inv _ (seekPos_found (startPos_inRange e.latch))
  · obtain ⟨inRange, _⟩ := inv running
    exact enterSegment_inv (e := { e with timer := e.timer - 1 }) _
      (seekPos_found fun q => succPos_inRange e.latch e.pos q inRange)
  · obtain ⟨inRange, level, pos, le⟩ := inv running
    intro _
    have oneLess : (e.timer - 1).toNat = e.timer.toNat - 1 := BitVec.toNat_sub_of_le (y := 1) pos
    have left : (e.timer - 1).toNat ≠ 0 := fun zero => ticksLeft (BitVec.eq_of_toNat_eq zero)
    exact ⟨inRange, level, Nat.pos_of_ne_zero left, oneLess ▸ Nat.le_trans (Nat.sub_le _ _) le⟩

/-! The receive engine. -/

/-- A frame with one entry, which is a gap if it is counted as one. -/
theorem newFrame_inv {par : Params} {r : RxEngine} {d : Word} {confirm : Nat} (inv : r.Inv par)
    (bound : confirm ≤ 1) (gap : confirm = 1 → isGap d = true) :
    RxEngine.Inv par { r with
      buffer := capWrite r.buffer 0 d, changeCount := 1, repeatConfirmCount := confirm } where
  chain := inv.chain
  confirm := bound
  count := Nat.le_of_ble_eq_true rfl
  frame one := by
    refine ⟨Nat.le_refl 1, ?_⟩
    rw [capRead_capWrite_same _ _ _ (by decide)]
    exact (isGap_iff d).1 (gap one)
  guard := inv.guard

/-- A store behind the first entry of a counted frame leaves that entry alone. -/
theorem store_inv {par : Params} {r : RxEngine} (d : Word) (inv : r.Inv par) (room : r.changeCount < 67) :
    RxEngine.Inv par { r with
      buffer := capWrite r.buffer r.changeCount d, changeCount := r.changeCount + 1 } where
  chain := inv.chain
  confirm := inv.confirm
  count := room
  frame one := by
    obtain ⟨nonempty, first⟩ := inv.frame one
    exact ⟨Nat.le_add_left 1 _, by rwa [capRead_capWrite_other _ _ _ _ (by omega)]⟩
  guard := inv.guard

/-- An edge step keeps R70 and R71. -/
theorem edgeStep_inv {par : Params} (pct : BitVec 8) (d : Word) {s : State} (inv : s.rx.Inv par) :
    (edgeStep pct d s).rx.Inv par := by
  have bound := inv.confirm
  obtain ⟨_, room, h⟩ | ⟨_, _, h⟩ | ⟨gap, _, h⟩ | ⟨gap, _, _, h⟩ | ⟨gap, _, notOne, h⟩ :=
    edgeStep_cases pct d s <;> rw [h]
  case inl => exact store_inv d inv room
  case inr.inl => exact newFrame_inv inv (Nat.zero_le 1) nofun
  case inr.inr.inl => exact newFrame_inv inv bound fun _ => gap
  case inr.inr.inr.inl => exact newFrame_inv inv (Nat.zero_le 1) nofun
  case inr.inr.inr.inr => exact newFrame_inv inv (by omega) fun _ => gap

/-- The front end keeps the chain's length and the guard's range, and the rest is the edge step's. -/
theorem frontEnd_inv {par : Params} {start r : RxEngine} (usTick rxIn acc : Bool) (before : start.Inv par)
    (inv : r.Inv par) : (frontEnd par.minEdgeSpacing usTick rxIn acc start r).Inv par where
  chain := by rw [frontEnd_sync, shiftSync_length, before.chain]
  confirm := by rw [frontEnd_confirm]; exact inv.confirm
  count := by rw [frontEnd_changeCount]; exact inv.count
  frame := by rw [frontEnd_confirm, frontEnd_changeCount, frontEnd_buffer]; exact inv.frame
  guard := by
    have := before.guard
    rw [frontEnd_guard]
    split <;> omega

/-! The message. -/

theorem hostMessage_inv {par : Params} (c : CycleIn) {m : Message} (inv : m.Inv par) :
    (hostMessage c m).Inv par := by
  obtain rfl | ranges := inv
  · exact .inl (by simp [hostMessage])
  · exact .inr (by simpa using ranges)

theorem romEntries_wf {t : ProtoTable} (wf : tableWf t = true) {p : Protocol} (mem : p ∈ romEntries t) :
    protocolWf p = true := ((tableWf_iff t).1 wf).2.2 p mem

/-- The observed base unit of a gap: at most the gap, and at least 16, for no factor is above 255 (R322, R335). -/
theorem baseUnit_of_gap {p : Protocol} (wf : protocolWf p = true) {g : Nat} (gap : 4300 < g) :
    16 ≤ baseUnit p g ∧ baseUnit p g ≤ g := by
  obtain ⟨_, factors⟩ := (protocolWf_iff p).1 wf
  obtain ⟨highPos, highLe⟩ := factors p.sync.high (by simp)
  obtain ⟨_, lowLe⟩ := factors p.sync.low (by simp)
  have pos : 0 < max p.sync.high.toNat p.sync.low.toNat := by omega
  refine ⟨(Nat.le_div_iff_mul_le pos).2 ?_, Nat.div_le_self _ _⟩
  omega

/-- The bit length of a frame that fits the buffer (R331). -/
theorem messageOf_bitlen {n : Nat} (fits : n ≤ 67) (acc : Word) (unit id : Nat) :
    (messageOf acc unit n id).bitlen.toNat = (n - 1) / 2 := by
  rw [messageOf, BitVec.toNat_ofNat]
  exact Nat.mod_eq_of_lt (by omega)

/-- What the trials find behind a gap is in the ranges of R331 and R335. -/
theorem tryAll_inv {par : Params} {pct n : Nat} {buf : Vector Word Config.cap} {m : Message}
    (wf : tableWf par.table = true) (gap : 4300 < (capRead buf 0).toNat) (fits : n ≤ 67)
    (found : tryAll par pct buf n = some m) : m.Inv par := by
  obtain ⟨k, p, acc, unit, entry, success, _, rfl⟩ := (tryAll_eq_some_iff ..).1 found
  obtain ⟨long, rfl, _⟩ := (trial_eq_success ..).1 success
  have inRom : k < nProto par.table := (List.getElem?_eq_some_iff.1 entry).1
  have romSize : nProto par.table ≤ 255 := ((tableWf_iff _).1 wf).2.1
  obtain ⟨unitMin, unitMax⟩ := baseUnit_of_gap (romEntries_wf wf (List.mem_of_getElem? entry)) gap
  have proto : (messageOf acc (baseUnit p (capRead buf 0).toNat) n (k + 1)).proto.toNat = k + 1 := by
    rw [messageOf, BitVec.toNat_ofNat]
    exact Nat.mod_eq_of_lt (by omega)
  have delay : (messageOf acc (baseUnit p (capRead buf 0).toNat) n (k + 1)).delay.toNat =
      baseUnit p (capRead buf 0).toNat := by
    rw [messageOf, BitVec.toNat_ofNat]
    exact Nat.mod_eq_of_lt (Nat.lt_of_le_of_lt unitMax (capRead buf 0).isLt)
  rw [Message.Inv, proto, delay, messageOf_bitlen fits]
  exact .inr (by omega)

/-- An edge step keeps the message's ranges: it publishes only behind the gap that R71 puts at entry 0. -/
theorem edgeStep_msg_inv {pct : BitVec 8} {d : Word} {s : State} (wf : tableWf s.par.table = true)
    (rx : s.rx.Inv s.par) (msg : s.msg.Inv s.par) : (edgeStep pct d s).msg.Inv s.par := by
  obtain ⟨_, _, h⟩ | ⟨_, _, h⟩ | ⟨_, _, h⟩ | ⟨_, _, one, h⟩ | ⟨_, _, _, h⟩ := edgeStep_cases pct d s <;> rw [h]
  case inr.inr.inr.inl =>
    obtain ⟨_, gap⟩ := rx.frame one
    cases found : tryAll s.par pct.toNat s.rx.buffer s.rx.changeCount with
    | none => exact msg
    | some m => exact tryAll_inv wf gap rx.count found
  all_goals exact msg

/-! The step. -/

namespace Runs
variable {s v t : State} (h : Runs s v t) (inv : s.Inv)
include h inv

theorem tx_inv : t.tx.Inv := by
  have host : v.tx.Inv := by
    rw [hostWrite_tx h.write]
    split
    case isTrue => exact nofun
    case isFalse => exact inv.tx
  rw [h.tx]
  split
  case isTrue => exact tickEngine_inv _ host
  case isFalse => exact host

theorem rx_inv : t.rx.Inv s.par := by
  rw [h.rx]
  refine frontEnd_inv _ _ _ inv.rx ?_
  split
  case isTrue =>
    obtain ⟨chain, confirm, count, frame, guard⟩ :=
      edgeStep_inv s.rxTol s.rx.pendDur (s := { s with msg := hostMessage (nextCycle s) s.msg }) inv.rx
    exact ⟨chain, confirm, count, frame, guard⟩
  case isFalse => exact inv.rx

theorem msg_inv : t.msg.Inv s.par := by
  have host := hostMessage_inv (nextCycle s) inv.msg
  rw [h.msg]
  split
  case isTrue =>
    exact edgeStep_msg_inv (s := { s with msg := hostMessage (nextCycle s) s.msg })
      ((paramsWf_iff _).1 inv.params).1 inv.rx host
  case isFalse => exact host

end Runs

/-- Settles O35: a reset cycle gives the invariant anew, and a cycle without reset keeps each part. -/
theorem stepKeepsInvariant : Obligations.StepKeepsInvariant := by
  unfold Obligations.StepKeepsInvariant
  intro s t inv h
  have par := step_par h
  have wf := inv.params
  cases rst : (nextCycle s).rst
  case true =>
    rw [step_of_rst wf rst] at h
    cases h
    exact ⟨wf, txEngine_reset_inv, rxEngine_reset_inv s.par, .inl rfl⟩
  case false =>
    obtain ⟨v, cycle⟩ := runs_of_step h rst
    exact ⟨par ▸ wf, cycle.tx_inv inv, par ▸ cycle.rx_inv inv, par ▸ cycle.msg_inv inv⟩

end Sys2Proof.Machine
end

section
/-! PROOFS. The transmitter (42_transmitter.md): the segments of a transmission by index, their number and their
total duration (R231 to R235, R245). -/

namespace Sys2Proof.Machine

/-! The segments. -/

theorem bitShape_eq_sentShape (l : TxLatch) (i : Nat) : bitShape l i = sentShape l i := by
  simp [bitShape, sentShape, dataBit]

/-- The two segments of a shape (R232). -/
theorem shapeSegments_eq (l : TxLatch) (h : Shape) : shapeSegments l h =
    [(!l.inv, l.base.toNat * h.high.toNat), (l.inv, l.base.toNat * h.low.toNat)] := rfl

theorem frameSegments_length (l : TxLatch) : (frameSegments l).length = 2 * l.len.toNat + 2 := by
  rw [frameSegments, List.length_append, bitSegments_length]
  rfl

/-- Bit `i` of `n` bits stands after the `n - 1 - i` bits above it. -/
theorem bitSegments_getElem? (l : TxLatch) {n i k : Nat} (hi : i < n) (hk : k < 2) :
    (bitSegments l n)[2 * (n - 1 - i) + k]? = (shapeSegments l (bitShape l i))[k]? := by
  induction n with
  | zero => omega
  | succ n ih =>
    rw [bitSegments]
    obtain rfl | below := Nat.eq_or_lt_of_le (Nat.le_of_lt_succ hi)
    · rw [show 2 * (i + 1 - 1 - i) + k = k by omega, List.getElem?_append_left hk]
    · have index : 2 * (n + 1 - 1 - i) + k = (shapeSegments l (bitShape l n)).length + (2 * (n - 1 - i) + k) := by
        rw [shapeSegments_eq, List.length_cons, List.length_singleton]
        omega
      rw [index, List.getElem?_append_right (Nat.le_add_right _ _), Nat.add_sub_cancel_left, ih below]

/-- Frame `r` stands after `r` frames of equal length. -/
theorem repeatFrames_getElem? (l : TxLatch) {n r j : Nat} (hr : r < n) (hj : j < 2 * l.len.toNat + 2) :
    (repeatFrames l n)[r * (2 * l.len.toNat + 2) + j]? = (frameSegments l)[j]? := by
  induction n generalizing r with
  | zero => omega
  | succ n ih =>
    rw [repeatFrames]
    cases r with
    | zero =>
      rw [Nat.zero_mul, Nat.zero_add, List.getElem?_append_left (by rwa [frameSegments_length])]
    | succ r =>
      have index : (r + 1) * (2 * l.len.toNat + 2) + j =
          (frameSegments l).length + (r * (2 * l.len.toNat + 2) + j) := by
        rw [frameSegments_length]
        ring
      rw [index, List.getElem?_append_right (Nat.le_add_right _ _), Nat.add_sub_cancel_left,
        ih (Nat.lt_of_succ_lt_succ hr)]

/-- The two segments of data position `i` in frame `r` (R234, R235). -/
theorem txSegments_data (l : TxLatch) {r i k : Nat} (hr : r < l.rep.toNat) (hi : i < l.len.toNat) (hk : k < 2) :
    (txSegments l)[r * (2 * l.len.toNat + 2) + (2 * (l.len.toNat - 1 - i) + k)]? =
      (shapeSegments l (sentShape l i))[k]? := by
  rw [txSegments, repeatFrames_getElem? l hr (by omega), frameSegments,
    List.getElem?_append_left (by rw [bitSegments_length]; omega), bitSegments_getElem? l hi hk,
    bitShape_eq_sentShape]

/-- The two segments of the sync shape in frame `r` (R235). -/
theorem txSegments_sync (l : TxLatch) {r k : Nat} (hr : r < l.rep.toNat) (hk : k < 2) :
    (txSegments l)[r * (2 * l.len.toNat + 2) + (2 * l.len.toNat + k)]? = (shapeSegments l l.sync)[k]? := by
  rw [txSegments, repeatFrames_getElem? l hr (by omega), frameSegments,
    List.getElem?_append_right (by rw [bitSegments_length]; omega), bitSegments_length, Nat.add_sub_cancel_left]

/-! Durations. -/

/-- The duration of a list of segments. -/
def totalDuration (segs : List (Bool × Nat)) : Nat := (segs.map Prod.snd).sum

theorem totalDuration_append (xs ys : List (Bool × Nat)) :
    totalDuration (xs ++ ys) = totalDuration xs + totalDuration ys := by
  simp [totalDuration]

theorem totalDuration_shapeSegments (l : TxLatch) (h : Shape) :
    totalDuration (shapeSegments l h) = l.base.toNat * (h.high.toNat + h.low.toNat) := by
  simp [totalDuration, shapeSegments, Nat.mul_add]

theorem totalDuration_bitSegments (l : TxLatch) (n : Nat) : totalDuration (bitSegments l n) =
    l.base.toNat * ((List.range n).map fun i => (sentShape l i).high.toNat + (sentShape l i).low.toNat).sum := by
  induction n with
  | zero => rfl
  | succ n ih =>
    rw [bitSegments, totalDuration_append, totalDuration_shapeSegments, ih, bitShape_eq_sentShape,
      List.range_succ]
    simp only [List.map_append, List.sum_append, List.map_cons, List.map_nil, List.sum_singleton]
    ring

theorem totalDuration_repeatFrames (l : TxLatch) (n : Nat) :
    totalDuration (repeatFrames l n) = n * totalDuration (frameSegments l) := by
  induction n with
  | zero => simp [repeatFrames, totalDuration]
  | succ n ih => rw [repeatFrames, totalDuration_append, ih]; ring

/-- What the waveform leaves out has no duration (R236). -/
theorem totalDuration_filter (segs : List (Bool × Nat)) :
    totalDuration (segs.filter fun seg => decide (0 < seg.2)) = totalDuration segs := by
  induction segs with
  | nil => rfl
  | cons seg segs ih =>
    rw [List.filter_cons]
    split
    case isTrue => simpa [totalDuration] using ih
    case isFalse zero =>
      have noTick : seg.2 = 0 := by simpa using zero
      simpa [totalDuration, noTick] using ih

theorem shapeSegments_le (l : TxLatch) (h : Shape) : ∀ seg ∈ shapeSegments l h, seg.2 ≤ 16711425 := by
  rw [shapeSegments_eq]
  simp only [List.forall_mem_cons, List.not_mem_nil, false_imp_iff, implies_true, and_true]
  exact ⟨product_le _ _, product_le _ _⟩

theorem bitSegments_le (l : TxLatch) (n : Nat) : ∀ seg ∈ bitSegments l n, seg.2 ≤ 16711425 := by
  induction n with
  | zero => exact nofun
  | succ n ih => exact List.forall_mem_append.2 ⟨shapeSegments_le l _, ih⟩

theorem repeatFrames_le (l : TxLatch) (n : Nat) : ∀ seg ∈ repeatFrames l n, seg.2 ≤ 16711425 := by
  induction n with
  | zero => exact nofun
  | succ n ih =>
    exact List.forall_mem_append.2
      ⟨List.forall_mem_append.2 ⟨bitSegments_le l _, shapeSegments_le l _⟩, ih⟩

/-- Settles O37: a frame within the frames, a pair within the frame, and the sums over both. -/
theorem waveformCountAndDuration : Obligations.WaveformCountAndDuration := by
  unfold Obligations.WaveformCountAndDuration
  refine fun l => ⟨fun r i hr hi => ?data, fun r hr => ?sync, repeatFrames_length l _, ?duration,
    repeatFrames_le l _⟩
  case data => exact ⟨txSegments_data l hr hi (k := 0) (by decide), txSegments_data l hr hi (k := 1) (by decide)⟩
  case sync => exact ⟨txSegments_sync l hr (k := 0) (by decide), txSegments_sync l hr (k := 1) (by decide)⟩
  case duration =>
    show totalDuration (txWave l) = _
    rw [txWave, totalDuration_filter, txSegments, totalDuration_repeatFrames, frameSegments, totalDuration_append,
      totalDuration_bitSegments, totalDuration_shapeSegments]
    ring

end Sys2Proof.Machine
end

section
/-! PROOFS. The walk of the positions (42_transmitter.md R240) and the engine's ticks (R239) against the waveform
(R235, R236). -/

namespace Sys2Proof.Machine

/-- From a position on, `after` leads through positions with these levels and durations, and to an end. -/
inductive Visits (l : TxLatch) (after : TxPos → Option TxPos) : Option TxPos → List (Bool × Nat) → Prop
  | done : Visits l after none []
  | visit (p : TxPos) {segs : List (Bool × Nat)} (rest : Visits l after (after p) segs) :
    Visits l after (some p) ((posLevel l p, posDuration l p) :: segs)

/-! `succ` visits the segments of a transmission. -/

/-- The sync shape of frame `r`, whatever `tx_bit` holds. -/
theorem visits_sync {l : TxLatch} {b : BitVec 6} {r : BitVec 16} {segs : List (Bool × Nat)}
    (rest : Visits l (succPos l) (succPos l ⟨.si, b, r⟩) segs) :
    Visits l (succPos l) (some ⟨.sa, b, r⟩) (shapeSegments l l.sync ++ segs) :=
  .visit ⟨.sa, b, r⟩ (.visit ⟨.si, b, r⟩ rest)

/-- The data bits from bit `b` down, then the sync shape. -/
theorem visits_data {l : TxLatch} {r : BitVec 16} {segs : List (Bool × Nat)}
    (rest : ∀ b, Visits l (succPos l) (succPos l ⟨.si, b, r⟩) segs) {n : Nat} {b : BitVec 6} (hb : b.toNat = n) :
    Visits l (succPos l) (some ⟨.da, b, r⟩) (bitSegments l (n + 1) ++ (shapeSegments l l.sync ++ segs)) := by
  induction n generalizing b with
  | zero =>
    have zero : b = 0 := BitVec.eq_of_toNat_eq hb
    subst zero
    exact .visit ⟨.da, 0, r⟩ (.visit ⟨.di, 0, r⟩ (visits_sync (rest 0)))
  | succ n ih =>
    have nonzero : b ≠ 0 := by rintro rfl; cases hb
    have next : succPos l ⟨.di, b, r⟩ = some ⟨.da, b - 1, r⟩ := if_neg nonzero
    have below : (b - 1).toNat = n := by
      rw [BitVec.toNat_sub_of_le (y := 1) (by show 1 ≤ b.toNat; omega), hb]
      rfl
    have top : bitSegments l (n + 1 + 1) = shapeSegments l (bitShape l b.toNat) ++ bitSegments l (n + 1) := by
      rw [bitSegments, hb]
    rw [top, List.append_assoc]
    exact .visit ⟨.da, b, r⟩ (.visit ⟨.di, b, r⟩ (next ▸ ih below))

theorem visits_frame {l : TxLatch} {b : BitVec 6} {r : BitVec 16} {segs : List (Bool × Nat)}
    (rest : ∀ b, Visits l (succPos l) (succPos l ⟨.si, b, r⟩) segs) :
    Visits l (succPos l) (some (frameStart l b r)) (frameSegments l ++ segs) := by
  rw [frameSegments, List.append_assoc, frameStart]
  split
  case isTrue empty => rw [empty]; exact visits_sync (rest b)
  case isFalse nonempty =>
    have pos : 1 ≤ l.len.toNat := Nat.pos_of_ne_zero fun zero => nonempty (BitVec.eq_of_toNat_eq zero)
    have top : (l.len - 1).toNat = l.len.toNat - 1 := BitVec.toNat_sub_of_le (y := 1) pos
    have count : l.len.toNat = (l.len.toNat - 1) + 1 := by omega
    rw [count]
    exact visits_data rest top

/-- From frame `r` on, the `n` frames that are left. -/
theorem visits_frames {l : TxLatch} {n : Nat} {b : BitVec 6} {r : BitVec 16}
    (left : r.toNat + (n + 1) = l.rep.toNat) :
    Visits l (succPos l) (some (frameStart l b r)) (repeatFrames l (n + 1)) := by
  induction n generalizing b r with
  | zero =>
    refine visits_frame fun b => ?_
    have last : succPos l ⟨.si, b, r⟩ = none :=
      if_neg (show ¬ r.toNat + 1 < l.rep.toNat by omega)
    rw [last]
    exact .done
  | succ n ih =>
    refine visits_frame fun b => ?_
    have more : succPos l ⟨.si, b, r⟩ = some (frameStart l b (r + 1)) :=
      if_pos (show r.toNat + 1 < l.rep.toNat by omega)
    rw [more]
    refine ih ?_
    have next : (r + 1).toNat = r.toNat + 1 := BitVec.toNat_add_of_lt (y := 1) (by simp; omega)
    omega

theorem visits_txSegments (l : TxLatch) : Visits l (succPos l) (startPos l) (txSegments l) := by
  unfold startPos txSegments
  split
  case isTrue noFrame => rw [noFrame]; exact .done
  case isFalse frames =>
    have pos : l.rep.toNat ≠ 0 := fun zero => frames (BitVec.eq_of_toNat_eq zero)
    obtain ⟨n, count⟩ := Nat.exists_eq_succ_of_ne_zero pos
    rw [count]
    exact visits_frames (r := 0) (by rw [count]; exact Nat.zero_add _)

/-! `next` visits the segments of nonzero duration. -/

/-- A search with fuel for all positions that are left skips those of no duration. -/
theorem visits_seekPos {l : TxLatch} {o : Option TxPos} {segs : List (Bool × Nat)}
    (h : Visits l (succPos l) o segs) (enough : segs.length ≤ positionCount l) {fuel : Nat}
    (fuelled : segs.length ≤ fuel) :
    Visits l (nextPos l) (seekPos l fuel o) (segs.filter fun seg => decide (0 < seg.2)) := by
  induction h generalizing fuel with
  | done => cases fuel <;> exact .done
  | visit p rest ih =>
    rw [List.length_cons] at enough fuelled
    obtain ⟨fuel, rfl⟩ := Nat.exists_eq_add_of_le' (Nat.le_trans (Nat.le_add_left 1 _) fuelled)
    rw [List.filter_cons, seekPos]
    by_cases pos : 0 < posDuration l p
    · rw [if_pos pos, if_pos (decide_eq_true pos)]
      exact .visit p (ih (by omega) (by omega))
    · rw [if_neg pos, if_neg (by simpa using pos)]
      exact ih (by omega) (by omega)

theorem visits_txWave (l : TxLatch) : Visits l (nextPos l) (firstPos l) (txWave l) :=
  visits_seekPos (visits_txSegments l) (repeatFrames_length l _).le (repeatFrames_length l _).le

theorem walk_of_visits {l : TxLatch} {o : Option TxPos} {segs : List (Bool × Nat)}
    (h : Visits l (nextPos l) o segs) {n : Nat} (enough : segs.length ≤ n) : walk l n o = segs := by
  induction h generalizing n with
  | done => cases n <;> rfl
  | visit p rest ih =>
    rw [List.length_cons] at enough
    obtain ⟨n, rfl⟩ := Nat.exists_eq_add_of_le' (Nat.le_trans (Nat.le_add_left 1 _) enough)
    rw [walk, ih (by omega)]

/-- Settles O38: `walk` follows `next`, and the waveform has no more segments than there are positions. -/
theorem positionsWalkTheWaveform : Obligations.PositionsWalkTheWaveform := by
  unfold Obligations.PositionsWalkTheWaveform
  intro l n enough
  have length : (txWave l).length ≤ positionCount l :=
    Nat.le_trans (List.length_filter_le _ _) (repeatFrames_length l _).le
  exact walk_of_visits (visits_txWave l) (Nat.le_trans length enough)

/-! The engine's ticks. -/

section segment
variable (followsInvert : Bool) {e : TxEngine} {n : Nat} (running : e.state = .run)
include running

theorem tickEngine_last (left : e.timer.toNat = 1) :
    tickEngine followsInvert e = enterSegment followsInvert { e with timer := 0 } (nextPos e.latch e.pos) := by
  have one : e.timer = 1 := BitVec.eq_of_toNat_eq left
  have zero : e.timer - 1#24 = 0#24 := by rw [one]; rfl
  simp [tickEngine, running, zero]

theorem tickEngine_more (left : e.timer.toNat = n + 2) :
    tickEngine followsInvert e = { e with timer := e.timer - 1 } ∧ (e.timer - 1).toNat = n + 1 := by
  have count : (e.timer - 1).toNat = n + 1 := by
    rw [BitVec.toNat_sub_of_le (y := 1) (show 1 ≤ e.timer.toNat by omega), left]
    rfl
  have nonzero : e.timer - 1#24 ≠ 0#24 := fun zero =>
    absurd (count.symm.trans (congrArg BitVec.toNat zero)) nofun
  exact ⟨by simp [tickEngine, running, nonzero], count⟩

/-- Before its last tick a segment stays on the line. -/
theorem tickTimes_within (left : e.timer.toNat = n + 1) {k : Nat} (within : k ≤ n) :
    (tickTimes followsInvert k e).state = .run ∧ (tickTimes followsInvert k e).level = e.level := by
  induction k generalizing e n with
  | zero => exact ⟨running, rfl⟩
  | succ k ih =>
    obtain ⟨n, rfl⟩ := Nat.exists_eq_add_of_le' (Nat.le_trans (Nat.le_add_left 1 _) within)
    obtain ⟨tick, count⟩ := tickEngine_more followsInvert running left
    rw [tickTimes, tick]
    exact ih (e := { e with timer := e.timer - 1 }) running count (Nat.le_of_succ_le_succ within)

/-- With its last tick a segment gives way to the next one. -/
theorem tickTimes_whole (left : e.timer.toNat = n + 1) : tickTimes followsInvert (n + 1) e =
    enterSegment followsInvert { e with timer := 0 } (nextPos e.latch e.pos) := by
  induction n generalizing e with
  | zero => exact tickEngine_last followsInvert running left
  | succ n ih =>
    obtain ⟨tick, count⟩ := tickEngine_more followsInvert running left
    rw [tickTimes, tick]
    exact ih (e := { e with timer := e.timer - 1 }) running count

end segment

/-- What an engine with the latched copy `l` shows: the level of a running segment, or `FINAL` (R241). -/
def Shows (followsInvert : Bool) (l : TxLatch) (e : TxEngine) : Option Bool → Prop
  | some v => e.state = .run ∧ e.level = v
  | none => e.state = .idle ∧ e.level = finalLevel followsInvert l

/-- From the position it enters on, the engine shows the segments that are visited, tick by tick. -/
theorem enterSegment_shows (followsInvert : Bool) {l : TxLatch} {o : Option TxPos} {segs : List (Bool × Nat)}
    (h : Visits l (nextPos l) o segs) (lasting : ∀ seg ∈ segs, 0 < seg.2) {e : TxEngine} (latch : e.latch = l)
    (k : Nat) :
    Shows followsInvert l (tickTimes followsInvert k (enterSegment followsInvert e o)) (levelAt segs k) := by
  induction h generalizing e k with
  | done =>
    rw [tickTimes_idle _ _ _ (enterSegment_none_state ..)]
    exact ⟨rfl, latch ▸ rfl⟩
  | visit p rest ih =>
    obtain ⟨pos, lasting⟩ := List.forall_mem_cons.1 lasting
    obtain ⟨n, duration⟩ := Nat.exists_eq_add_of_le' (show 1 ≤ posDuration l p from pos)
    have left : (enterSegment followsInvert e (some p)).timer.toNat = n + 1 := by
      rw [enterSegment_some_timer, timer_toNat, latch, duration]
    rw [levelAt, duration]
    split
    case isTrue within =>
      have stays := tickTimes_within followsInvert (enterSegment_some_state ..) left (Nat.le_of_lt_succ within)
      rwa [enterSegment_some_level, latch] at stays
    case isFalse after =>
      obtain ⟨k, rfl⟩ := Nat.exists_eq_add_of_le (Nat.le_of_not_lt after)
      rw [Nat.add_sub_cancel_left, tickTimes_add, tickTimes_whole followsInvert (enterSegment_some_state ..) left,
        enterSegment_latch, enterSegment_some_pos, latch]
      exact ih lasting rfl k

/-- Settles O39: the first tick of an armed engine enters the first position, and the waveform is what is visited
from there. -/
theorem engineEmitsTheWaveform : Obligations.EngineEmitsTheWaveform := by
  unfold Obligations.EngineEmitsTheWaveform
  intro follows e armed k
  have lasting : ∀ seg ∈ txWave e.latch, 0 < seg.2 := fun seg mem =>
    of_decide_eq_true (List.mem_filter.1 mem).2
  have begins : tickTimes follows (k + 1) e =
      tickTimes follows k (enterSegment follows e (firstPos e.latch)) := by
    simp [tickTimes, tickEngine, armed]
  have shows := enterSegment_shows follows (visits_txWave e.latch) lasting rfl k
  rw [begins]
  split
  case h_1 v level => rwa [level] at shows
  case h_2 level => rwa [level] at shows

end Sys2Proof.Machine
end

section
/-! PROOFS. The decoder (44_decoder.md): when a trial succeeds (R326, R327), the length it publishes (R331), the
tolerance 0 (R335), and the round trip of a clean frame (R338). -/

namespace Sys2Proof.Machine

/-! The pairs. -/

/-- `pairMatches` in the words of R325 and R326. -/
theorem pairMatches_iff (inclusive : Bool) (h : Shape) (unit tol : Nat) (a b : Word) :
    pairMatches inclusive h unit tol a b = true ↔ PairWithin inclusive h unit tol a b := by
  cases inclusive <;>
    simp [pairMatches, PairWithin, within_strict, within_inclusive, absdiff_eq_natAbs]

/-- The pair `a`, `b` decodes to `bit` (R327). -/
def Decodes (inclusive : Bool) (p : Protocol) (unit tol : Nat) (a b : Word) (bit : Bool) : Prop :=
  if bit then ¬ PairWithin inclusive p.zero unit tol a b ∧ PairWithin inclusive p.one unit tol a b
  else PairWithin inclusive p.zero unit tol a b

/-- One bit shifted into an accumulator (R327). -/
def shiftIn (acc : Word) (bit : Bool) : Word := acc <<< 1 ||| (if bit then 1 else 0)

section pairs
variable {inclusive : Bool} {p : Protocol} {unit tol : Nat}

theorem decodePairs_cons_of_decodes {a b : Word} {bit : Bool} (h : Decodes inclusive p unit tol a b bit)
    (rest : List Word) (acc : Word) : decodePairs inclusive p unit tol (a :: b :: rest) acc =
      decodePairs inclusive p unit tol rest (shiftIn acc bit) := by
  rw [decodePairs_cons]
  cases bit with
  | false =>
    have zero := (pairMatches_iff inclusive p.zero unit tol a b).2 h
    simp [zero, shiftIn]
  | true =>
    obtain ⟨notZero, one⟩ := h
    rw [if_neg (mt (pairMatches_iff ..).1 notZero), if_pos ((pairMatches_iff ..).2 one)]
    rfl

theorem decodePairs_cons_eq_some {a b : Word} {rest : List Word} {acc res : Word} :
    decodePairs inclusive p unit tol (a :: b :: rest) acc = some res ↔
      ∃ bit, Decodes inclusive p unit tol a b bit ∧
        decodePairs inclusive p unit tol rest (shiftIn acc bit) = some res := by
  constructor
  · intro h
    by_cases zero : PairWithin inclusive p.zero unit tol a b
    · have bit : Decodes inclusive p unit tol a b false := zero
      exact ⟨false, bit, (decodePairs_cons_of_decodes bit rest acc).symm.trans h⟩
    · by_cases one : PairWithin inclusive p.one unit tol a b
      · have bit : Decodes inclusive p unit tol a b true := ⟨zero, one⟩
        exact ⟨true, bit, (decodePairs_cons_of_decodes bit rest acc).symm.trans h⟩
      · simp [decodePairs_cons, pairMatches_iff, zero, one] at h
  · rintro ⟨bit, decodes, h⟩
    rw [decodePairs_cons_of_decodes decodes, h]

theorem decodePairs_of_no_pair {xs : List Word} (noPair : xs.length / 2 = 0) (acc : Word) :
    decodePairs inclusive p unit tol xs acc = some acc := by
  match xs with
  | [] => exact decodePairs_nil ..
  | [_] => exact decodePairs_single ..
  | _ :: _ :: _ => simp at noPair

/-- The pairs of a list decode exactly when there are bits, one for each pair, that they decode to. -/
theorem decodePairs_eq_some {xs : List Word} {acc res : Word} :
    decodePairs inclusive p unit tol xs acc = some res ↔
      ∃ bits : List Bool, bits.length = xs.length / 2 ∧
        (∀ k b, bits[k]? = some b →
          Decodes inclusive p unit tol (xs.getD (2 * k) 0) (xs.getD (2 * k + 1) 0) b) ∧
        res = bits.foldl shiftIn acc := by
  induction pairs : xs.length / 2 generalizing xs acc with
  | zero =>
    rw [decodePairs_of_no_pair pairs, Option.some.injEq, eq_comm]
    constructor
    · rintro rfl
      exact ⟨[], rfl, nofun, rfl⟩
    · rintro ⟨bits, length, _, rfl⟩
      rw [List.length_eq_zero_iff.1 length, List.foldl_nil]
  | succ n ih =>
    obtain ⟨a, b, rest, rfl⟩ : ∃ a b rest, xs = a :: b :: rest := by
      match xs with
      | a :: b :: rest => exact ⟨a, b, rest, rfl⟩
      | [] | [_] => simp at pairs
    have left : rest.length / 2 = n := by simp at pairs; omega
    rw [decodePairs_cons_eq_some]
    constructor
    · rintro ⟨bit, decodes, h⟩
      obtain ⟨bits, length, all, rfl⟩ := (ih left).1 h
      refine ⟨bit :: bits, by rw [List.length_cons, length], fun k c hc => ?_, rfl⟩
      cases k with
      | zero => cases hc; exact decodes
      | succ k => exact all k c hc
    · rintro ⟨bits, length, all, rfl⟩
      obtain ⟨bit, bits, rfl⟩ := List.exists_cons_of_length_eq_add_one length
      have lengths : bits.length = n := Nat.succ.inj length
      exact ⟨bit, all 0 bit rfl, (ih left).2 ⟨bits, lengths, fun k c => all (k + 1) c, rfl⟩⟩

end pairs

/-! When a trial succeeds. -/

theorem accumulate_eq (bits : List Bool) : accumulate bits = bits.foldl shiftIn 0 := rfl

/-- The pair `k` of a trial is at the entries `dataStart + 2 k` and the next (R326). -/
theorem decodes_trialEntries {inclusive : Bool} {p : Protocol} {unit tol n k : Nat}
    {buf : Vector Word Config.cap} {b : Bool} (inFrame : dataStart p + 2 * k + 1 < n) :
    Decodes inclusive p unit tol ((trialEntries p buf n).getD (2 * k) 0)
        ((trialEntries p buf n).getD (2 * k + 1) 0) b ↔
      PairDecodes inclusive p unit tol buf (dataStart p + 2 * k) b := by
  rw [trialEntries_getD _ _ _ _ (by omega), trialEntries_getD _ _ _ _ (by omega)]
  rfl

/-- Settles O53: the pairs of the list are those of the buffer. -/
theorem trialSucceedsExactlyWhenEveryPairMatches : Obligations.TrialSucceedsExactlyWhenEveryPairMatches := by
  unfold Obligations.TrialSucceedsExactlyWhenEveryPairMatches
  intro inclusive pct n p buf acc unit fits
  rw [trial_eq_success, decodePairs_eq_some, trialEntries_length p buf n fits]
  refine and_congr_right fun _ => and_congr_right fun _ => exists_congr fun bits => and_congr_right fun length =>
    and_congr_left fun _ => forall₂_congr fun k b => imp_congr_right fun found => ?_
  have inBits : k < bits.length := (List.getElem?_eq_some_iff.1 found).1
  exact decodes_trialEntries (by omega)

/-! The length (R331). -/

theorem tryAll_long {par : Params} {pct n : Nat} {buf : Vector Word Config.cap} {m : Message}
    (found : tryAll par pct buf n = some m) : 7 < n := by
  by_contra short
  rw [(shortFramePublishesNothing par pct n buf (by omega)).2] at found
  cases found

theorem tryAll_bitlen {par : Params} {pct n : Nat} {buf : Vector Word Config.cap} {m : Message} (fits : n ≤ 67)
    (found : tryAll par pct buf n = some m) : m.bitlen.toNat = (n - 1) / 2 := by
  obtain ⟨k, p, acc, unit, _, _, _, rfl⟩ := (tryAll_eq_some_iff ..).1 found
  exact messageOf_bitlen fits acc unit (k + 1)

/-- Settles O55: the length is a function of `n`, and the pairs are half of the entries from `dataStart` on. -/
theorem publishedLengthComesFromEdgeCount : Obligations.PublishedLengthComesFromEdgeCount := by
  unfold Obligations.PublishedLengthComesFromEdgeCount
  constructor
  · intro par pct n buf m fits found
    have long := tryAll_long found
    rw [tryAll_bitlen fits found]
    omega
  · intro p buf n long fits
    rw [trialEntries_length p buf n fits, dataStart]
    cases p.inverted
    · simp
    · simp only [if_true, true_and]
      split <;> omega

/-! Tolerance 0 (R335). -/

theorem not_pairWithin_zero (h : Shape) (unit : Nat) (a b : Word) : ¬ PairWithin false h unit 0 a b := by
  simp [PairWithin]

theorem not_decodes_zero (p : Protocol) (unit : Nat) (a b : Word) (bit : Bool) :
    ¬ Decodes false p unit 0 a b bit := by
  cases bit
  · exact not_pairWithin_zero p.zero unit a b
  · exact fun h => not_pairWithin_zero p.one unit a b h.2

/-- A frame that is not too short has a first pair, which does not decode. -/
theorem trial_fails_of_zero {pct n : Nat} {p : Protocol} {buf : Vector Word Config.cap} (fits : n ≤ 67)
    (zero : tolerance (baseUnit p (capRead buf 0).toNat) pct = 0) (acc : Word) (unit : Nat) :
    trial false pct p buf n ≠ .success acc unit := by
  intro success
  obtain ⟨long, rfl, decoded⟩ := (trial_eq_success ..).1 success
  rw [zero] at decoded
  obtain ⟨bits, length, all, _⟩ := decodePairs_eq_some.1 decoded
  have start : dataStart p ≤ 2 := by unfold dataStart; split <;> decide
  have pairs : 0 < bits.length := by rw [length, trialEntries_length p buf n fits]; omega
  exact not_decodes_zero _ _ _ _ _ (all 0 bits[0] (List.getElem?_eq_getElem pairs))

/-- Settles O56: every trial fails, so none is the first success. -/
theorem zeroToleranceMatchesNothing : Obligations.ZeroToleranceMatchesNothing := by
  unfold Obligations.ZeroToleranceMatchesNothing
  intro par pct n buf strict zero fits
  refine Option.eq_none_iff_forall_ne_some.2 fun m found => ?_
  obtain ⟨k, p, acc, unit, entry, success, _⟩ := (tryAll_eq_some_iff ..).1 found
  rw [strict] at success
  exact trial_fails_of_zero fits (zero p (List.mem_of_getElem? entry)) acc unit success

end Sys2Proof.Machine
end

section
/-! PROOFS. The round trip of R338 (44_decoder.md section 4): the trial of the protocol a clean frame was sent
with finds the bits sent. -/

namespace Sys2Proof.Machine

/-! The accumulator. -/

/-- The data bits sent for positions `n - 1` down to 0 (R234, R235). -/
def sentBits (l : TxLatch) : Nat → List Bool
  | 0 => []
  | n + 1 => dataBit l n :: sentBits l n

theorem getLsbD_shiftIn (acc : Word) (b : Bool) {i : Nat} (inWord : i < 32) :
    (shiftIn acc b).getLsbD i = if i = 0 then b else acc.getLsbD (i - 1) := by
  cases i with
  | zero => cases b <;> simp [shiftIn]
  | succ i => cases b <;> simp [shiftIn, inWord, - BitVec.getLsbD_eq_getElem]

/-- Shifting the bits of a value in leaves them below what was there. -/
theorem getLsbD_shiftIn_sentBits (l : TxLatch) {n : Nat} (fits : n ≤ 32) (acc : Word) {i : Nat}
    (inWord : i < 32) :
    ((sentBits l n).foldl shiftIn acc).getLsbD i =
      if i < n then l.value.getLsbD i else acc.getLsbD (i - n) := by
  induction n generalizing acc with
  | zero => rfl
  | succ n ih =>
    have bit : dataBit l n = l.value.getLsbD n := by simp [dataBit, show n ≤ 31 by omega]
    rw [sentBits, List.foldl_cons, ih (by omega), getLsbD_shiftIn _ _ (by omega), bit]
    obtain below | rfl | above := Nat.lt_trichotomy i n
    · simp [below, Nat.lt_succ_of_lt below]
    · simp
    · simp [show ¬ i < n by omega, show ¬ i < n + 1 by omega, show i - n ≠ 0 by omega, Nat.sub_sub]

theorem accumulate_sentBits (l : TxLatch) {n : Nat} (fits : n ≤ 32) :
    accumulate (sentBits l n) = BitVec.ofNat 32 (l.value.toNat % 2 ^ n) := by
  apply BitVec.eq_of_getLsbD_eq
  intro i inWord
  rw [accumulate_eq, getLsbD_shiftIn_sentBits l fits 0 inWord, BitVec.getLsbD_ofNat, Nat.testBit_mod_two_pow]
  by_cases below : i < n <;> simp [below, inWord, BitVec.getLsbD]

/-! The durations. -/

/-- A segment's duration as the receiver stores it. -/
def segWord (seg : Bool × Nat) : Word := BitVec.ofNat 32 seg.2

theorem product_word (b : BitVec 16) (f : BitVec 8) :
    (BitVec.ofNat 32 (b.toNat * f.toNat)).toNat = b.toNat * f.toNat := by
  have := product_le b f
  rw [BitVec.toNat_ofNat]
  exact Nat.mod_eq_of_lt (by omega)

section frame
variable {inclusive : Bool} {p : Protocol} {tol : Nat}

/-- The durations of a shape are within every tolerance but 0 of it. -/
theorem pairWithin_self (h : Shape) (b : BitVec 16) (pos : 1 ≤ tol) :
    PairWithin inclusive h b.toNat tol (BitVec.ofNat 32 (b.toNat * h.high.toNat))
      (BitVec.ofNat 32 (b.toNat * h.low.toNat)) := by
  have exact (f : BitVec 8) :
      (((BitVec.ofNat 32 (b.toNat * f.toNat)).toNat : Int) - f.toNat * b.toNat).natAbs = 0 := by
    rw [product_word]
    push_cast
    rw [mul_comm, sub_self]
    rfl
  unfold PairWithin
  rw [exact, exact]
  split <;> omega

/-- Where R338's condition holds, the one shape's durations do not match the zero shape. -/
theorem not_pairWithin_zero_of_apart (apart : ShapesApart inclusive p tol) :
    ¬ PairWithin inclusive p.zero p.base.toNat tol (BitVec.ofNat 32 (p.base.toNat * p.one.high.toNat))
      (BitVec.ofNat 32 (p.base.toNat * p.one.low.toNat)) := by
  have scaled (f g : BitVec 8) :
      (((BitVec.ofNat 32 (p.base.toNat * f.toNat)).toNat : Int) - g.toNat * p.base.toNat).natAbs =
        ((f.toNat : Int) - g.toNat).natAbs * p.base.toNat := by
    rw [product_word]
    push_cast
    rw [mul_comm, ← sub_mul, Int.natAbs_mul, Int.natAbs_natCast]
  unfold ShapesApart at apart
  unfold PairWithin
  rw [scaled, scaled]
  cases inclusive <;> simp at apart ⊢ <;> omega

variable {l : TxLatch} (sentWith : l.base = p.base ∧ l.zero = p.zero ∧ l.one = p.one) (pos : 1 ≤ tol)
  (apart : ShapesApart inclusive p tol)
include sentWith pos apart

/-- The two durations of a bit decode to it. -/
theorem decodes_bitShape (i : Nat) :
    Decodes inclusive p p.base.toNat tol (BitVec.ofNat 32 (l.base.toNat * (bitShape l i).high.toNat))
      (BitVec.ofNat 32 (l.base.toNat * (bitShape l i).low.toNat)) (dataBit l i) := by
  obtain ⟨base, zero, one⟩ := sentWith
  rw [bitShape, base, zero, one]
  cases dataBit l i
  · exact pairWithin_self p.zero p.base pos
  · exact ⟨not_pairWithin_zero_of_apart apart, pairWithin_self p.one p.base pos⟩

/-- The durations of the data bits decode to the bits sent. -/
theorem decodePairs_bitSegments (n : Nat) (rest : List Word) (acc : Word) :
    decodePairs inclusive p p.base.toNat tol ((bitSegments l n).map segWord ++ rest) acc =
      decodePairs inclusive p p.base.toNat tol rest ((sentBits l n).foldl shiftIn acc) := by
  induction n generalizing acc with
  | zero => rfl
  | succ n ih =>
    exact (decodePairs_cons_of_decodes (decodes_bitShape sentWith pos apart n) _ acc).trans (ih _)

end frame

/-! The frame. -/

/-- The latched copy a clean frame is sent with. -/
def frameLatch (p : Protocol) (v : Word) (k : Nat) : TxLatch :=
  ⟨p.base, p.sync, p.zero, p.one, p.inverted, v, BitVec.ofNat 6 k, 1⟩

/-- The factor of the sync shape's part that is the gap (R324). -/
def gapFactor (p : Protocol) : BitVec 8 := if p.inverted then p.sync.high else p.sync.low

/-- A clean frame is its gap and then, from `dataStart` on, the data and at most one duration more. -/
theorem cleanFrame_parts (p : Protocol) (v : Word) (k : Nat) :
    (∃ ws, cleanFrame p v k = BitVec.ofNat 32 (p.base.toNat * (gapFactor p).toNat) :: ws) ∧
      ∃ rest, (cleanFrame p v k).drop (dataStart p) = (bitSegments (frameLatch p v k) k).map segWord ++ rest ∧
        rest.length / 2 = 0 := by
  unfold cleanFrame gapFactor dataStart
  by_cases inverted : p.inverted = true
  · simp only [if_pos inverted]
    exact ⟨⟨_, rfl⟩, [], (List.append_nil _).symm, rfl⟩
  · simp only [if_neg inverted]
    exact ⟨⟨_, rfl⟩, [BitVec.ofNat 32 (p.base.toNat * p.sync.high.toNat)], rfl,
      Nat.div_eq_of_lt Nat.one_lt_two⟩

/-- The gap gives the base unit back when it carries the larger sync factor (R322). -/
theorem baseUnit_of_gapFactor {p : Protocol} (wf : protocolWf p = true)
    (larger : if p.inverted then p.sync.low.toNat ≤ p.sync.high.toNat else p.sync.high.toNat ≤ p.sync.low.toNat) :
    baseUnit p (p.base.toNat * (gapFactor p).toNat) = p.base.toNat := by
  have factor : max p.sync.high.toNat p.sync.low.toNat = (gapFactor p).toNat := by
    unfold gapFactor
    split at larger
    case isTrue inverted => rw [if_pos inverted]; exact Nat.max_eq_left larger
    case isFalse upright => rw [if_neg upright]; exact Nat.max_eq_right larger
  obtain ⟨_, factors⟩ := (protocolWf_iff p).1 wf
  have pos : 0 < (gapFactor p).toNat := by
    rw [← factor]
    exact Nat.lt_of_lt_of_le (factors p.sync.high (by simp)).1 (Nat.le_max_left _ _)
  rw [baseUnit, factor, Nat.mul_div_cancel _ pos]

/-- The trial of the protocol the frame was sent with (R338). -/
theorem trial_cleanFrame {inclusive : Bool} {pct k : Nat} {p : Protocol} {v : Word} {buf : Vector Word Config.cap}
    (wf : protocolWf p = true) (long : 3 ≤ k) (fits : k ≤ 32)
    (entries : buf.toList.take (2 * k + 2) = cleanFrame p v k)
    (larger : if p.inverted then p.sync.low.toNat ≤ p.sync.high.toNat else p.sync.high.toNat ≤ p.sync.low.toNat)
    (pos : 1 ≤ tolerance p.base.toNat pct) (apart : ShapesApart inclusive p (tolerance p.base.toNat pct)) :
    trial inclusive pct p buf (2 * k + 2) =
      .success (BitVec.ofNat 32 (v.toNat % 2 ^ k)) p.base.toNat := by
  obtain ⟨⟨ws, gap⟩, rest, data, noPair⟩ := cleanFrame_parts p v k
  have first : baseUnit p (capRead buf 0).toNat = p.base.toNat := by
    rw [capRead_zero_of_take (entries.trans gap), product_word, baseUnit_of_gapFactor wf larger]
  refine (trial_eq_success ..).2 ⟨by omega, first.symm, ?_⟩
  rw [trialEntries, entries, data,
    decodePairs_bitSegments (l := frameLatch p v k) ⟨rfl, rfl, rfl⟩ pos apart, decodePairs_of_no_pair noPair,
    ← accumulate_eq, accumulate_sentBits _ fits]
  rfl

/-- Settles O58: the trial of `p` succeeds, and is the first that does. -/
theorem cleanFrameRoundTrip : Obligations.CleanFrameRoundTrip := by
  unfold Obligations.CleanFrameRoundTrip
  intro par pct k id p v buf table entry earlier long fits entries larger pos apart
  have wf := romEntries_wf table (List.mem_of_getElem? entry)
  have success := trial_cleanFrame wf long fits entries larger pos apart
  have length : (2 * k + 2 - 1) / 2 = k := by omega
  refine (tryAll_eq_some_iff ..).2 ⟨id, p, _, _, entry, success, earlier, ?_⟩
  rw [messageOf, length]

end Sys2Proof.Machine
end
